-- ==== Sys2Proof/Word.lean ====
section
/-! DEFINITION. The widths of the values that cross a port of the block or sit in one of its registers
(spec/10_state.md R22, R28, R36, R37; spec/30_encoding.md R60, R63, R65, R68). -/

namespace Sys2Proof

/-- A 64-bit request word (30_encoding R68). -/
abbrev ReqWord := BitVec 64

/-- A 16-bit DShot frame, or a 16-bit EDT frame (30_encoding R60, R66). -/
abbrev Frame := BitVec 16

/-- The upper 12 bits of a frame: payload12 of a DShot frame, data12 of an EDT frame (00_scope R18). -/
abbrev Data12 := BitVec 12

/-- A 32-bit receive word, as the engine's receive slot delivers it (30_encoding R65). -/
abbrev RxWord := BitVec 32

/-- The 32-bit data of a response (10_state R36). -/
abbrev RespData := BitVec 32

/-- A nibble of a frame. -/
abbrev Nibble := BitVec 4

/-- A 5-bit GCR symbol (30_encoding R63). -/
abbrev Symbol := BitVec 5

/-- An 8-bit channel index (30_encoding R68). -/
abbrev Channel := BitVec 8

/-- An 8-bit engine pin (10_state R31). -/
abbrev Pin := BitVec 8

/-- A time in microseconds, an unbounded natural (10_state R29, R35). -/
abbrev Micros := Nat

end Sys2Proof
end

