-- ==== Sys2Proof/Syntax.lean ====
section
/-! DEFINITION. The operations a requester issues to the block, one constructor for each row of
spec/opcode_table.json (spec/30_encoding.md R69, R70), and the pseudo-instructions of R76. -/

namespace Sys2Proof

/-- The Motor field READ_STAT selects (30_encoding R70). -/
inductive StatSel where
  | good
  | badGcr
  | badCrc
  | badType
  | timeouts
  | frame
  | fallback
  | repeats
deriving DecidableEq, Repr

/-- One operation with its operands, every operand an unsigned field taken as written (30_encoding R70). -/
inductive Instr where
  /-- NOP (R111). -/
  | nop
  /-- CRC4 `P` (R77). -/
  | crc4 (p : BitVec 12)
  /-- ENCODE `V`, `T` (R78). -/
  | encode (v : BitVec 11) (t : Bool)
  /-- FRAME_DECODE `F` (R79). -/
  | frameDecode (f : BitVec 16)
  /-- GCR_SYMBOL `S` (R83). -/
  | gcrSymbol (sym : BitVec 5)
  /-- TLM_DECODE `W` (R84). -/
  | tlmDecode (w : BitVec 32)
  /-- TLM_CLASSIFY `D` (R85). -/
  | tlmClassify (d : BitVec 12)
  /-- THROTTLE `ch`, `V` (R104). -/
  | throttle (ch : BitVec 8) (v : BitVec 11)
  /-- COMMAND `ch`, `K` (R105). -/
  | command (ch : BitVec 8) (k : BitVec 6)
  /-- TICK_START (R96). -/
  | tickStart
  /-- TICK_COMPLETE (R98). -/
  | tickComplete
  /-- TICK (R99). -/
  | tick
  /-- READ_STAT `ch`, `SEL` (R110). -/
  | readStat (ch : BitVec 8) (sel : StatSel)
deriving DecidableEq, Repr

/-- The pseudo-instructions of 30_encoding R76. -/
inductive Pseudo where
  | disarm (ch : BitVec 8)
  | beacon (ch : BitVec 8) (n : BitVec 6)
  | escInfo (ch : BitVec 8)
  | spinDir (ch : BitVec 8) (d : BitVec 6)
  | mode3dOff (ch : BitVec 8)
  | mode3dOn (ch : BitVec 8)
  | settingsReq (ch : BitVec 8)
  | settingsSave (ch : BitVec 8)
  | edtOn (ch : BitVec 8)
  | edtOff (ch : BitVec 8)
deriving DecidableEq, Repr

end Sys2Proof
end

