-- ==== Sys2Proof/WellFormed.lean ====
section
/-! DEFINITION. The checks on a term that its field widths do not already make: COMMAND's code is at most 47
(spec/30_encoding.md R69, R73), BEACON's number is 1 to 5 and SPIN_DIR's is 7 or 8 (R76). -/

namespace Sys2Proof

/-- An operation some request word encodes. Only COMMAND's `K` has values its field admits and the spec reserves. -/
def Instr.wellFormed : Instr → Bool
  | .nop => true
  | .crc4 _ => true
  | .encode _ _ => true
  | .frameDecode _ => true
  | .gcrSymbol _ => true
  | .tlmDecode _ => true
  | .tlmClassify _ => true
  | .throttle _ _ => true
  | .command _ k => decide (k.toNat ≤ 47)
  | .tickStart => true
  | .tickComplete => true
  | .tick => true
  | .readStat _ _ => true

/-- A pseudo-instruction with an operand R76 admits. -/
def Pseudo.wellFormed : Pseudo → Bool
  | .disarm _ => true
  | .beacon _ n => decide (1 ≤ n.toNat ∧ n.toNat ≤ 5)
  | .escInfo _ => true
  | .spinDir _ d => decide (d.toNat = 7 ∨ d.toNat = 8)
  | .mode3dOff _ => true
  | .mode3dOn _ => true
  | .settingsReq _ => true
  | .settingsSave _ => true
  | .edtOn _ => true
  | .edtOff _ => true

end Sys2Proof
end

