-- ==== Sys2Proof/Decode.lean ====
section
/-! DEFINITION. From a 64-bit request word to an operation or a named reason why the word is reserved, and back:
spec/30_encoding.md R68, R69, R70, R73, R75, R76. -/

namespace Sys2Proof

/-- Why a request word is reserved: the three cases of 30_encoding R73. -/
inductive ReservedReason where
  /-- (a) `OP` is 0xD, 0xE or 0xF. -/
  | opNumber
  /-- (b) a 1 in a bit R69 marks "must be 0". -/
  | mustBeZero
  /-- (c) COMMAND with `K` at least 48. -/
  | commandCode
deriving DecidableEq, Repr

/-- What a request word stands for. -/
inductive Decoded where
  | instr (i : Instr)
  | reserved (why : ReservedReason)
deriving DecidableEq, Repr

/-- The operation numbers of 30_encoding R69, by name. -/
inductive Op where
  | nop
  | crc4
  | encode
  | frameDecode
  | gcrSymbol
  | tlmDecode
  | tlmClassify
  | throttle
  | command
  | tickStart
  | tickComplete
  | tick
  | readStat
deriving DecidableEq, Repr

/-- `OP` of 30_encoding R69. -/
def Op.code : Op → BitVec 4
  | .nop => 0x0
  | .crc4 => 0x1
  | .encode => 0x2
  | .frameDecode => 0x3
  | .gcrSymbol => 0x4
  | .tlmDecode => 0x5
  | .tlmClassify => 0x6
  | .throttle => 0x7
  | .command => 0x8
  | .tickStart => 0x9
  | .tickComplete => 0xA
  | .tick => 0xB
  | .readStat => 0xC

/-- The operation of an `OP` field; none for the reserved numbers 0xD, 0xE and 0xF. -/
def Op.ofCode (c : BitVec 4) : Option Op :=
  match c.toNat with
  | 0 => some .nop
  | 1 => some .crc4
  | 2 => some .encode
  | 3 => some .frameDecode
  | 4 => some .gcrSymbol
  | 5 => some .tlmDecode
  | 6 => some .tlmClassify
  | 7 => some .throttle
  | 8 => some .command
  | 9 => some .tickStart
  | 10 => some .tickComplete
  | 11 => some .tick
  | 12 => some .readStat
  | _ => none

/-- The bits of the word, below `OP`, that must be 0: `RSV`, an unused `CH` and the unused bits of `A`
(30_encoding R69; each is a row's mask of spec/opcode_table.json without its four `OP` bits). -/
def Op.mustBeZero : Op → ReqWord
  | .nop => 0x0FFFFFFFFFFFFFFF
  | .crc4 => 0x0FFFFFFFFFFFF000
  | .encode => 0x0FFFFFFFFFFFF000
  | .frameDecode => 0x0FFFFFFFFFFF0000
  | .gcrSymbol => 0x0FFFFFFFFFFFFFE0
  | .tlmDecode => 0x0FFFFFFF00000000
  | .tlmClassify => 0x0FFFFFFFFFFFF000
  | .throttle => 0x000FFFFFFFFFF800
  | .command => 0x000FFFFFFFFFFFC0
  | .tickStart => 0x0FFFFFFFFFFFFFFF
  | .tickComplete => 0x0FFFFFFFFFFFFFFF
  | .tick => 0x0FFFFFFFFFFFFFFF
  | .readStat => 0x000FFFFFFFFFFFF8

/-- A row's mask of spec/opcode_table.json. -/
def Op.mask (o : Op) : ReqWord := 0xF000000000000000 ||| o.mustBeZero

/-- A row's match of spec/opcode_table.json: `OP` alone, every must-be-zero bit 0. -/
def Op.pattern (o : Op) : ReqWord := o.code.setWidth 64 <<< 60

/-- All operations, in the table's order. -/
def Op.all : List Op :=
  [.nop, .crc4, .encode, .frameDecode, .gcrSymbol, .tlmDecode, .tlmClassify, .throttle, .command, .tickStart,
    .tickComplete, .tick, .readStat]

/-- The `OP` field, bits 63:60 (30_encoding R68). -/
def opField (w : ReqWord) : BitVec 4 := w.extractLsb' 60 4

/-- The `CH` field, bits 59:52 (30_encoding R68). -/
def chField (w : ReqWord) : BitVec 8 := w.extractLsb' 52 8

/-- `SEL` by number (30_encoding R70). -/
def StatSel.code : StatSel → BitVec 3
  | .good => 0
  | .badGcr => 1
  | .badCrc => 2
  | .badType => 3
  | .timeouts => 4
  | .frame => 5
  | .fallback => 6
  | .repeats => 7

/-- The field a `SEL` number selects (30_encoding R70). -/
def StatSel.ofCode (c : BitVec 3) : StatSel :=
  match c.toNat with
  | 0 => .good
  | 1 => .badGcr
  | 2 => .badCrc
  | 3 => .badType
  | 4 => .timeouts
  | 5 => .frame
  | 6 => .fallback
  | _ => .repeats

/-- The operands of an operation, taken as written from the word (30_encoding R69, R70). -/
def Op.withOperands (o : Op) (w : ReqWord) : Instr :=
  match o with
  | .nop => .nop
  | .crc4 => .crc4 (w.extractLsb' 0 12)
  | .encode => .encode (w.extractLsb' 0 11) (w.getLsbD 11)
  | .frameDecode => .frameDecode (w.extractLsb' 0 16)
  | .gcrSymbol => .gcrSymbol (w.extractLsb' 0 5)
  | .tlmDecode => .tlmDecode (w.extractLsb' 0 32)
  | .tlmClassify => .tlmClassify (w.extractLsb' 0 12)
  | .throttle => .throttle (chField w) (w.extractLsb' 0 11)
  | .command => .command (chField w) (w.extractLsb' 0 6)
  | .tickStart => .tickStart
  | .tickComplete => .tickComplete
  | .tick => .tick
  | .readStat => .readStat (chField w) (StatSel.ofCode (w.extractLsb' 0 3))

/-- The decoder: read `OP`, apply the row's mask, take the operands, refuse a reserved code (30_encoding R73, R75). -/
def decode (w : ReqWord) : Decoded :=
  match Op.ofCode (opField w) with
  | none => .reserved .opNumber
  | some o =>
    if w &&& o.mustBeZero ≠ 0 then .reserved .mustBeZero
    else if (o.withOperands w).wellFormed then .instr (o.withOperands w)
    else .reserved .commandCode

/-- The operation number of an instruction. -/
def Instr.op : Instr → Op
  | .nop => .nop
  | .crc4 _ => .crc4
  | .encode _ _ => .encode
  | .frameDecode _ => .frameDecode
  | .gcrSymbol _ => .gcrSymbol
  | .tlmDecode _ => .tlmDecode
  | .tlmClassify _ => .tlmClassify
  | .throttle _ _ => .throttle
  | .command _ _ => .command
  | .tickStart => .tickStart
  | .tickComplete => .tickComplete
  | .tick => .tick
  | .readStat _ _ => .readStat

/-- The `CH` field of an instruction: its channel, 0 where the operation takes none. -/
def Instr.chOperand : Instr → BitVec 8
  | .throttle ch _ => ch
  | .command ch _ => ch
  | .readStat ch _ => ch
  | .nop | .crc4 _ | .encode _ _ | .frameDecode _ | .gcrSymbol _ | .tlmDecode _ | .tlmClassify _ => 0
  | .tickStart | .tickComplete | .tick => 0

/-- The `A` field of an instruction. -/
def Instr.aOperand : Instr → BitVec 32
  | .crc4 p => p.setWidth 32
  | .encode v t => (BitVec.ofBool t ++ v : BitVec 12).setWidth 32
  | .frameDecode f => f.setWidth 32
  | .gcrSymbol y => y.setWidth 32
  | .tlmDecode w => w
  | .tlmClassify d => d.setWidth 32
  | .throttle _ v => v.setWidth 32
  | .command _ k => k.setWidth 32
  | .readStat _ sel => sel.code.setWidth 32
  | .nop | .tickStart | .tickComplete | .tick => 0

/-- The assembled word, `OP << 60 | CH << 52 | A` (30_encoding R76): the four fields of R68 side by side. -/
def encode (i : Instr) : ReqWord :=
  i.op.code ++ i.chOperand ++ (0 : BitVec 20) ++ i.aOperand

/-- The word a pseudo-instruction stands for is that of its expansion (30_encoding R76). -/
def Pseudo.expand : Pseudo → Instr
  | .disarm ch => .throttle ch 0
  | .beacon ch n => .command ch n
  | .escInfo ch => .command ch 6
  | .spinDir ch d => .command ch d
  | .mode3dOff ch => .command ch 9
  | .mode3dOn ch => .command ch 10
  | .settingsReq ch => .command ch 11
  | .settingsSave ch => .command ch 12
  | .edtOn ch => .command ch 13
  | .edtOff ch => .command ch 14

/-- The name an operation is written with (30_encoding R69, R76). -/
def Op.mnemonic : Op → String
  | .nop => "NOP"
  | .crc4 => "CRC4"
  | .encode => "ENCODE"
  | .frameDecode => "FRAME_DECODE"
  | .gcrSymbol => "GCR_SYMBOL"
  | .tlmDecode => "TLM_DECODE"
  | .tlmClassify => "TLM_CLASSIFY"
  | .throttle => "THROTTLE"
  | .command => "COMMAND"
  | .tickStart => "TICK_START"
  | .tickComplete => "TICK_COMPLETE"
  | .tick => "TICK"
  | .readStat => "READ_STAT"

/-- The operands in the order they are written (30_encoding R76). -/
def Instr.operands : Instr → List Nat
  | .nop | .tickStart | .tickComplete | .tick => []
  | .crc4 p => [p.toNat]
  | .encode v t => [v.toNat, t.toNat]
  | .frameDecode f => [f.toNat]
  | .gcrSymbol y => [y.toNat]
  | .tlmDecode w => [w.toNat]
  | .tlmClassify d => [d.toNat]
  | .throttle ch v => [ch.toNat, v.toNat]
  | .command ch k => [ch.toNat, k.toNat]
  | .readStat ch sel => [ch.toNat, sel.code.toNat]

/-- The request as it is written: the mnemonic, then the operands separated by commas, in decimal (30_encoding R76). -/
def Instr.asm (i : Instr) : String :=
  match i.operands with
  | [] => i.op.mnemonic
  | xs => i.op.mnemonic ++ " " ++ ", ".intercalate (xs.map toString)

/-- The instruction the decoder reads from the word `w` of which the table gives `nbits` bits, the bits above them 0.
A request is one 64-bit word that crosses its port whole (20_memory R48), so the table's numbering of the bits is the
word's own. -/
def decodeTableWord (nbits w : Nat) : Option Instr :=
  match decode (BitVec.ofNat 64 (w % 2 ^ nbits)) with
  | .instr i => some i
  | .reserved _ => none

end Sys2Proof
end

