-- ==== Sys2Proof/Machine/Frame.lean ====
section
/-! DEFINITION. The pure functions of the frame codec: the CRC-4 generator, the frame encoder and the fields of a
received frame (spec/40_frame_codec.md R77, R78, R79; spec/30_encoding.md R60), and what an ESC makes of a value
(R61), which the block never reads. -/

namespace Sys2Proof.Machine

/-- `CRC4(p12)`: the inverted XOR fold of the three nibbles (40_frame_codec R77). -/
def crc4 (p : Data12) : Nibble :=
  ~~~(p.extractLsb' 0 4 ^^^ p.extractLsb' 4 4 ^^^ p.extractLsb' 8 4)

/-- Payload12 of a value and a telemetry-request bit: the value shifted left one bit, the bit ORed in
(40_frame_codec R78). -/
def payload12 (v : BitVec 11) (t : Bool) : Data12 :=
  v.setWidth 12 <<< 1 ||| (BitVec.ofBool t).setWidth 12

/-- `ENCODE(v11, t1)`: payload12, then its CRC as the low nibble (40_frame_codec R78). -/
def encodeFrame (v : BitVec 11) (t : Bool) : Frame :=
  (payload12 v t).setWidth 16 <<< 4 ||| (crc4 (payload12 v t)).setWidth 16

/-- `NEUTRAL`, the frame `ENCODE(0, 0)` (00_scope R16). -/
def neutral : Frame := encodeFrame 0 false

/-- `frame[15:4]`: payload12 of a DShot frame, data12 of an EDT frame (30_encoding R60, R66). -/
def upper12 (f : Frame) : Data12 := f.extractLsb' 4 12

/-- `frame[15:5]` (30_encoding R60). -/
def frameValue (f : Frame) : BitVec 11 := f.extractLsb' 5 11

/-- `frame[4]` (30_encoding R60). -/
def frameTlm (f : Frame) : Bool := f.getLsbD 4

/-- `frame[3:0]` (30_encoding R60). -/
def frameCrc (f : Frame) : Nibble := f.extractLsb' 0 4

/-- `frame[3:0] = CRC4(frame[15:4])` (40_frame_codec R79; the invariant of 10_state R24). -/
def frameCrcOk (f : Frame) : Bool := frameCrc f == crc4 (upper12 f)

/-- What the ESC, not the block, makes of an 11-bit value (30_encoding R61). -/
inductive EscMeaning where
  | disarm
  | commandCode
  | throttle
  | reverse
  | forward
deriving DecidableEq, Repr

/-- The ranges of 30_encoding R61; in 3D mode the throttle range is split at `THREE_D_SPLIT`. No rule of the block
reads this (log 20). -/
def escMeaning (threeD : Bool) (split : BitVec 11) (v : BitVec 11) : EscMeaning :=
  if v.toNat = 0 then .disarm
  else if v.toNat ≤ 47 then .commandCode
  else if !threeD then .throttle
  else if v.toNat < split.toNat then .reverse
  else .forward

end Sys2Proof.Machine
end

