-- ==== Sys2Proof/Config.lean ====
section
/-! DEFINITION. The parameters of one Controller (spec/00_scope.md R8, R9; spec/10_state.md R21; spec/20_memory.md R54)
and the one constant the spec leaves open with no default. A `Config` is plain data and a field of `State`: every
statement about all states is a statement about all parameters. -/

namespace Sys2Proof

/-- The class a type nibble of an EDT frame is mapped to (00_scope R8, 30_encoding R67). -/
inductive EdtClass where
  | erpm
  | temp
  | volt
  | current
  | unsupported
deriving DecidableEq, Repr

/-- The construction arguments of a Controller. The first five are the configuration registers of 10_state R21, which
no operation writes; the rest is fixed logic (00_scope R8) and the engine's two open depths (20_memory R54). -/
structure Config where
  /-- `N`, the channel count (9 bits). -/
  n : BitVec 9
  /-- `PIN_BASE`, the first engine pin. -/
  pinBase : Pin
  /-- `SPEED`, the speed class; also the engine output `eng_speed` (10_state R37). -/
  speed : BitVec 2
  /-- `REPEAT_COUNT`, the number of times a command frame is sent. -/
  repeatCount : BitVec 8
  /-- `IDLE_TIMEOUT`, in microseconds. -/
  idleTimeout : BitVec 32
  /-- `GAP`, the inter-frame gap for each of the four speed classes (42_channel_mux R97). -/
  gap : Vector Nat 4
  /-- `GCR_TABLE`, nibble to symbol (30_encoding R63). -/
  gcrTable : Vector Symbol 16
  /-- `EDT_TYPE_MAP`, type nibble to class (30_encoding R67). -/
  edtTypeMap : Vector EdtClass 16
  /-- `CNT_WIDTH`, the width of each receive-statistics counter. -/
  cntWidth : Nat
  /-- `THREE_D_SPLIT`, the first forward-half value in 3D mode; no rule of the block reads it. -/
  threeDSplit : BitVec 11
  /-- `ENG_TX_DEPTH`, the depth of the engine's transmit slot. -/
  engTxDepth : Nat
  /-- `ENG_RX_DEPTH`, the depth of the engine's receive slot. -/
  engRxDepth : Nat
deriving DecidableEq, Repr

/-- The ranges and constraints on the parameters: 00_scope R8 and R9, 10_state R21, 20_memory R54. What a construction
outside them does is R9's for three of them and the model's choice for the rest (log 23). -/
abbrev Config.Wf (c : Config) : Prop :=
  (1 ≤ c.n.toNat ∧ c.n.toNat ≤ 256) ∧
  c.pinBase.toNat + c.n.toNat ≤ 256 ∧
  1 ≤ c.repeatCount.toNat ∧
  c.gcrTable.toList.Nodup ∧
  (1 ≤ c.cntWidth ∧ c.cntWidth ≤ 64) ∧
  48 ≤ c.threeDSplit.toNat ∧
  1 ≤ c.engTxDepth ∧
  1 ≤ c.engRxDepth

/-- The gap of a speed class in the one Controller that `State.reset` is: the formula is in no source
(42_channel_mux R97), so it is a free value with no body. DESIGN CHOICE, safe (log 8). -/
opaque Config.openGap : Nat → Nat

end Sys2Proof
end

