-- ==== Sys2Proof/Machine/Tables.lean ====
section
/-! DEFINITION. The default tables of the spec and the parameters of the one Controller `State.reset` is
(spec/00_scope.md R8; spec/30_encoding.md R63, R67). -/

namespace Sys2Proof.Machine

/-- The default `GCR_TABLE` (30_encoding R63). PRESUMED by the spec itself, from general knowledge (log 9). -/
def defaultGcrTable : Vector Symbol 16 :=
  #v[0x19, 0x1B, 0x12, 0x13, 0x1D, 0x15, 0x16, 0x17, 0x1A, 0x09, 0x0A, 0x0B, 0x1E, 0x0D, 0x0E, 0x0F]

/-- The default `EDT_TYPE_MAP` (30_encoding R67). PRESUMED by the spec itself, from general knowledge (log 9). -/
def defaultEdtTypeMap : Vector EdtClass 16 :=
  #v[.erpm, .erpm, .temp, .erpm, .volt, .erpm, .unsupported, .erpm,
    .unsupported, .erpm, .unsupported, .erpm, .unsupported, .erpm, .unsupported, .erpm]

/-- The parameters of `State.reset`: the spec's defaults where 00_scope R8 gives one; `N`, `PIN_BASE`, `SPEED` and the
two engine depths are DESIGN CHOICE (log 6); the gaps are free (log 8). -/
def defaultConfig : Config where
  n := 4
  pinBase := 0
  speed := 0
  repeatCount := 12
  idleTimeout := 200000
  gap := #v[Config.openGap 0, Config.openGap 1, Config.openGap 2, Config.openGap 3]
  gcrTable := defaultGcrTable
  edtTypeMap := defaultEdtTypeMap
  cntWidth := 32
  threeDSplit := 1048
  engTxDepth := 1
  engRxDepth := 1

end Sys2Proof.Machine
end

