-- ==== Sys2Proof/Machine/State.lean ====
section
/-! DEFINITION. Everything the spec gives the machine, as plain data: the Controller's registers (spec/10_state.md R21,
R22, R28 to R31), its ports (R35 to R38), a held request (spec/00_scope.md R15), the engine and the telemetry sink
beside it (R20), and what the environment will still do. Reset is construction (spec/70_reset_and_hazards.md R129,
R131). -/

namespace Sys2Proof.Machine

/-- The tick phase (10_state R30). -/
inductive Phase where
  | idle
  | started
deriving DecidableEq, Repr

/-- One Motor record (10_state R22). The counters are naturals kept below `2 ^ CNT_WIDTH` (log 16). -/
@[ext]
structure Motor where
  /-- `M[c].frame`: the frame sent the next time the channel is served. -/
  frame : Frame
  /-- `M[c].fallback`: the last continuous-throttle frame. -/
  fallback : Frame
  /-- `M[c].repeat`: command transmissions still owed. -/
  repeats : BitVec 8
  /-- `M[c].good`: telemetry readings produced. -/
  good : Nat
  /-- `M[c].bad_gcr`: receive words with an invalid GCR symbol. -/
  badGcr : Nat
  /-- `M[c].bad_crc`: EDT frames with a bad CRC. -/
  badCrc : Nat
  /-- `M[c].bad_type`: CRC-valid EDT frames that produced no reading. -/
  badType : Nat
  /-- `M[c].timeouts`: receive words equal to zero. -/
  timeouts : Nat
deriving DecidableEq, Repr

/-- The status of a response: 0 = OK, 1 = IGNORED (10_state R36). -/
inductive Status where
  | ok
  | ignored
deriving DecidableEq, Repr

/-- The answer to one request (10_state R36). -/
structure Response where
  status : Status
  data : RespData
deriving DecidableEq, Repr

/-- The type of a telemetry reading (00_scope R19). -/
inductive ReadingType where
  | erpm
  | voltage
  | current
  | temperature
deriving DecidableEq, Repr

/-- One `EmitTelemetry` strobe (10_state R38). -/
structure Reading where
  ch : Channel
  kind : ReadingType
  /-- A 32-bit signed integer. -/
  value : BitVec 32
deriving DecidableEq, Repr

/-- One `EngPush` strobe: a frame in the engine's transmit slot with its gap (10_state R37). -/
structure TxEntry where
  frame : Frame
  gap : Nat
deriving DecidableEq, Repr

/-- A frame the engine has put on the wire, with the pin and speed class it was emitted at (60_exceptions R122). -/
structure Emission where
  pin : Pin
  speed : BitVec 2
  frame : Frame
  gap : Nat
deriving DecidableEq, Repr

/-- The Hardware Timing Engine's own state, as far as its interface shows it (10_state R33, R37; 60_exceptions R122 to
R124). -/
structure Engine where
  /-- The transmit slot, oldest first (20_memory R54). -/
  txSlot : List TxEntry
  /-- The receive slot, oldest first (20_memory R54). -/
  rxSlot : List RxWord
  /-- Whether the engine reports room, when it has room (60_exceptions R123; log 4). -/
  txReport : Bool
  /-- What went on the wire, oldest first. -/
  wire : List Emission
deriving DecidableEq, Repr

/-- One move of the engine agent, a free choice of the engine (60_exceptions R122 to R124; log 3). -/
inductive EngineMove where
  /-- The engine sends the oldest frame of its transmit slot. -/
  | transmit
  /-- The engine places a word, any 32 bits, in its receive slot. -/
  | place (w : RxWord)
  /-- The engine changes what it reports as transmit-buffer-empty. -/
  | report (free : Bool)
deriving DecidableEq, Repr

/-- What the environment does next (log 1): the requester presents a word with a time (10_state R34, R35), or the
engine moves. -/
inductive Input where
  | request (word : ReqWord) (now : Micros)
  | engine (move : EngineMove)
deriving DecidableEq, Repr

/-- A request in the held outcome (00_scope R15(c)): TICK_COMPLETE, or TICK in its complete part with the data of its
start part's response (42_channel_mux R98, R99). -/
inductive Held where
  | complete
  | tick (startData : RespData)
deriving DecidableEq, Repr

/-- The block raises no exception (60_exceptions R112), so no instruction faults in a state a run can reach. -/
inductive Fault where
  /-- A channel that passed its check selects no Motor record. Raised by THROTTLE, COMMAND, READ_STAT, TICK_START,
  TICK_COMPLETE and TICK, only in a state that breaks `State.Wf`, which no run from a constructed Controller reaches.
  Safe (log 12). -/
  | noMotorRecord
deriving DecidableEq, Repr

/-- Why the machine gives a request, or a construction, no meaning (00_scope R15(d)). -/
inductive Refusal where
  /-- An instruction that has no meaning yet. Raised by no arm of this model. Safe. -/
  | notModelled (mnemonic : String)
  /-- A reserved request word (30_encoding R73). Raised by the decoder's answer in `step`, and by COMMAND with a code
  above 47. Safe: the spec asks for the refusal. -/
  | reservedWord (why : ReservedReason)
  /-- A tick request in the wrong phase (42_channel_mux R95). Raised by TICK_START, TICK_COMPLETE and TICK. Safe: the
  spec asks for the refusal. -/
  | wrongPhase
  /-- A request whose time is before an earlier request's, or before the construction time: the requester broke
  60_exceptions R120 and the run is outside the model. Raised by `step`. Safe (log 11). -/
  | timeBackwards
  /-- Construction parameters that break a constraint or a range. Raised by `newController`. For REPEAT_COUNT = 0, N = 0
  and a GCR_TABLE that is not injective the spec asks for the refusal (00_scope R9); for any other range of 00_scope R8,
  10_state R21 and 20_memory R54 it names no outcome, and the refusal is the model's: DESIGN CHOICE (log 23). Safe. -/
  | badParameters
deriving DecidableEq, Repr

/-- One Controller, with the engine it owns, the telemetry sink and what its environment will still do. -/
@[ext]
structure State where
  /-- The configuration registers and the fixed logic (10_state R21, 00_scope R8). -/
  cfg : Config
  /-- The Motor register file `M`, channel 0 first (10_state R22). -/
  motors : List Motor
  /-- `cur`, the served channel (10_state R28). -/
  cur : Channel
  /-- `last_cmd` (10_state R29). -/
  lastCmd : Micros
  /-- `phase` (10_state R30). -/
  phase : Phase
  /-- `eng_en` (10_state R31). -/
  engEn : Bool
  /-- `eng_pin` (10_state R31). -/
  engPin : Pin
  /-- `now`, the time input as last sampled with a request (10_state R35). -/
  now : Micros
  /-- The response port: the answer to the last request, none while one is held (10_state R36; log 15). -/
  response : Option Response
  /-- The request being held, if any (00_scope R15(c); log 2). -/
  held : Option Held
  /-- The engine this Controller owns (60_exceptions R125). -/
  engine : Engine
  /-- The readings the telemetry sink has accepted, oldest first (10_state R38; log 15). -/
  sink : List Reading
  /-- The model's own field: what the requester and the engine will still do, in order (log 1). -/
  inputs : List Input
deriving DecidableEq, Repr

/-- A Motor record after reset (10_state R39). -/
def Motor.atReset : Motor where
  frame := neutral
  fallback := neutral
  repeats := 0
  good := 0
  badGcr := 0
  badCrc := 0
  badType := 0
  timeouts := 0

/-- The engine's slots in `State.reset`: empty, reporting room. The spec leaves them a free initial state of the engine
(10_state R41): DESIGN CHOICE, unsafe (log 7). -/
def Engine.atReset : Engine where
  txSlot := []
  rxSlot := []
  txReport := true
  wire := []

/-- A Controller right after construction with parameters `cfg`, an engine in the state `eng` and the construction time
`now0` (10_state R39, R40; 70_reset_and_hazards R129, R131). -/
def State.construct (cfg : Config) (eng : Engine) (now0 : Micros) : State where
  cfg := cfg
  motors := List.replicate cfg.n.toNat Motor.atReset
  cur := 0
  lastCmd := now0
  phase := .idle
  engEn := true
  engPin := cfg.pinBase
  now := now0
  response := none
  held := none
  engine := eng
  sink := []
  inputs := []

/-- The machine right after reset: one construction among all (log 6, log 7). -/
def State.reset : State := State.construct defaultConfig Engine.atReset 0

end Sys2Proof.Machine
end

