-- ==== Sys2Proof/Machine/Flags.lean ====
section
/-! DEFINITION. The block has no status flags (spec/10_state.md R32); what stands in their place is the numbering of
result codes and the layout of response data (spec/30_encoding.md R71, R72; spec/00_scope.md R19; spec/10_state.md
R36). -/

namespace Sys2Proof.Machine

/-- The result of a decode or a tick (30_encoding R71). -/
inductive Res where
  | ok
  | timeout
  | badGcr
  | badCrc
  | unsupported
  | zeroErpm
deriving DecidableEq, Repr

/-- The 3-bit `RES` code (30_encoding R71). -/
def resCode : Res → BitVec 3
  | .ok => 0
  | .timeout => 1
  | .badGcr => 2
  | .badCrc => 3
  | .unsupported => 4
  | .zeroErpm => 5

/-- The 2-bit code of a reading's type (00_scope R19). -/
def readingCode : ReadingType → BitVec 2
  | .erpm => 0
  | .voltage => 1
  | .current => 2
  | .temperature => 3

/-- The 2-bit status of a response (10_state R36). -/
def statusCode : Status → BitVec 2
  | .ok => 0
  | .ignored => 1

/-- FRAME_DECODE: `crc_ok << 16 | tlm << 11 | value` (40_frame_codec R79). -/
def frameDecodeData (crcOk tlm : Bool) (v : BitVec 11) : RespData :=
  (BitVec.ofBool crcOk).setWidth 32 <<< 16 ||| (BitVec.ofBool tlm).setWidth 32 <<< 11 ||| v.setWidth 32

/-- GCR_SYMBOL: `valid << 4 | nib`, the nibble 0 when invalid (41_telemetry R83). -/
def gcrSymbolData : Option Nibble → RespData
  | some n => (1 : RespData) <<< 4 ||| n.setWidth 32
  | none => 0

/-- TLM_DECODE: `res << 16 | f16` (41_telemetry R84). -/
def tlmDecodeData (r : Res) (f : Frame) : RespData :=
  (resCode r).setWidth 32 <<< 16 ||| f.setWidth 32

/-- TLM_CLASSIFY: `res << 28 | type << 26 | value` (41_telemetry R85). -/
def tlmClassifyData (r : Res) (k : ReadingType) (v : BitVec 32) : RespData :=
  (resCode r).setWidth 32 <<< 28 ||| (readingCode k).setWidth 32 <<< 26 ||| v

/-- TICK_START: `sent << 8 | cur` (42_channel_mux R96). -/
def tickStartData (sent : Bool) (cur : Channel) : RespData :=
  (BitVec.ofBool sent).setWidth 32 <<< 8 ||| cur.setWidth 32

/-- TICK_COMPLETE: `wd << 19 | res << 16 | cur` (42_channel_mux R98). -/
def tickCompleteData (wd : Bool) (r : Res) (cur : Channel) : RespData :=
  (BitVec.ofBool wd).setWidth 32 <<< 19 ||| (resCode r).setWidth 32 <<< 16 ||| cur.setWidth 32

/-- TICK: `c.data[19:16] << 16 | s.data[8] << 8 | s.data[7:0]` from the data `sd` of the start part and `cd` of the
complete part (42_channel_mux R99). -/
def tickData (sd cd : RespData) : RespData :=
  (cd.extractLsb' 16 4).setWidth 32 <<< 16 ||| (sd.extractLsb' 8 1).setWidth 32 <<< 8 ||| (sd.extractLsb' 0 8).setWidth 32

/-- The data a completion answers with: TICK_COMPLETE's own, or TICK's from both parts. -/
def heldData : Held → RespData → RespData
  | .complete, cd => cd
  | .tick sd, cd => tickData sd cd

end Sys2Proof.Machine
end

