-- ==== Sys2Proof/Machine/Operands.lean ====
section
/-! DEFINITION. How an operation reaches what its operands name: the channel check before any state is touched
(spec/10_state.md R23), the Motor record a channel selects (R22), the Motor field `SEL` selects (spec/30_encoding.md
R70), and the numbers of the GCR and EDT maps (R64, R67). -/

namespace Sys2Proof.Machine

/-- `ch < N` (10_state R23, 30_encoding R70). -/
def inRange (s : State) (ch : Channel) : Bool := decide (ch.toNat < s.cfg.n.toNat)

/-- `M[c]`, if there is such a record (10_state R23). -/
def motorAt (s : State) (c : Channel) : Option Motor := s.motors[c.toNat]?

/-- `M[c] <- m`. -/
def setMotor (c : Channel) (m : Motor) (s : State) : State :=
  { s with motors := s.motors.set c.toNat m }

/-- What `READ_STAT` reads, as a natural (30_encoding R70, 44_watchdog_stats R110). -/
def Motor.stat (m : Motor) : StatSel → Nat
  | .good => m.good
  | .badGcr => m.badGcr
  | .badCrc => m.badCrc
  | .badType => m.badType
  | .timeouts => m.timeouts
  | .frame => m.frame.toNat
  | .fallback => m.fallback.toNat
  | .repeats => m.repeats.toNat

/-- `GCR_TABLE[n]` (30_encoding R63). -/
def gcrSymbolOf (c : Config) (n : Nibble) : Symbol := c.gcrTable[n.toNat]'n.isLt

/-- `GCR_INV(s)`: the nibble of a symbol, none for an invalid one (30_encoding R64). -/
def gcrInv (c : Config) (y : Symbol) : Option Nibble :=
  (c.gcrTable.toList.findIdx? (fun e => e == y)).map (BitVec.ofNat 4)

/-- `EDT_TYPE_MAP[t]` (30_encoding R67). -/
def edtClassOf (c : Config) (t : Nibble) : EdtClass := c.edtTypeMap[t.toNat]'t.isLt

/-- `GAP(SPEED)` (42_channel_mux R97). -/
def gapOfSpeed (c : Config) : Nat := c.gap[c.speed.toNat]'c.speed.isLt

/-- The pin of channel `c`, `PIN_BASE + c` (10_state R31, 20_memory R43). -/
def pinOf (c : Config) (ch : Channel) : Pin := c.pinBase + ch

/-- The channel after `cur` in the round, `(cur + 1) mod N` (42_channel_mux R96). -/
def nextChannel (s : State) : Channel := BitVec.ofNat 8 ((s.cur.toNat + 1) % s.cfg.n.toNat)

end Sys2Proof.Machine
end

