-- ==== Sys2Proof/Machine/Ops.lean ====
section
/-! DEFINITION. The named operations over the state and the ports that the meanings are written with: the primitives of
spec/00_scope.md R14 (`respond`, `EngTxFree`, `EngRxReady`, `EngPush`, `EngPop`, `EmitTelemetry`, register writes), the
channel check, the idle test and the watchdog (spec/44_watchdog_stats.md R108).
There is no operation that takes an exception and none that returns from one: the block has neither
(spec/60_exceptions.md R112, R117, R118). -/

namespace Sys2Proof.Machine

/-- The three outcomes of a step, for this machine. -/
abbrev Result := Host.Outcome State Fault Refusal

/-- `respond(status, data32)` (00_scope R14). -/
def respond (st : Status) (d : RespData) (s : State) : State :=
  { s with response := some ⟨st, d⟩ }

/-- A request completed with data and no other effect. -/
def answer (d : RespData) (s : State) : Result := .next (respond .ok d s)

/-- Performs `k` on `M[c]`. A channel that selects no record is the fault `noMotorRecord` (log 12). -/
def withMotor (c : Channel) (s : State) (k : Motor → Result) : Result :=
  match motorAt s c with
  | some m => k m
  | none => .fault .noMotorRecord

/-- The channel check of every operation that takes a channel: out of range, the answer is (IGNORED, 0) and nothing
else changes (10_state R23, 00_scope R15(b)). -/
def onChannel (ch : Channel) (s : State) (k : Motor → Result) : Result :=
  if inRange s ch then withMotor ch s k else .next (respond .ignored 0 s)

/-- `last_cmd <- now` (10_state R29). -/
def touchLastCmd (s : State) : State := { s with lastCmd := s.now }

/-- `phase <- p` (10_state R30). -/
def setPhase (p : Phase) (s : State) : State := { s with phase := p }

/-- Parks a request in the held outcome, or takes it out of it (00_scope R15(c); log 2). -/
def setHeld (h : Option Held) (s : State) : State := { s with held := h }

/-- `eng_en <- b` (10_state R31). -/
def setEngEn (b : Bool) (s : State) : State := { s with engEn := b }

/-- `cur <- c` (10_state R28). -/
def setCur (c : Channel) (s : State) : State := { s with cur := c }

/-- `eng_pin <- p` (10_state R31). -/
def setEngPin (p : Pin) (s : State) : State := { s with engPin := p }

/-- `EngTxFree()`: the engine reports room and its transmit slot has room (60_exceptions R123; log 4). -/
def engTxFree (s : State) : Bool :=
  s.engine.txReport && decide (s.engine.txSlot.length < s.cfg.engTxDepth)

/-- `EngRxReady()`: the receive slot holds a word (60_exceptions R122). -/
def engRxReady (s : State) : Bool := !s.engine.rxSlot.isEmpty

/-- `EngPush(frame16, gap)`: the frame goes to the end of the transmit slot (10_state R37, 20_memory R54). -/
def engPush (f : Frame) (gap : Nat) (s : State) : State :=
  { s with engine := { s.engine with txSlot := s.engine.txSlot ++ [⟨f, gap⟩] } }

/-- The engine's receive slot, written whole. -/
def setRxSlot (ws : List RxWord) (s : State) : State := { s with engine := { s.engine with rxSlot := ws } }

/-- `EngPop()`: the oldest word of the receive slot, and the state without it (20_memory R52, R54). -/
def engPop (s : State) : Option (RxWord × State) :=
  match s.engine.rxSlot with
  | [] => none
  | w :: rest => some (w, setRxSlot rest s)

/-- `EmitTelemetry(ch, type, value)`: the sink accepts the reading at once (10_state R38, 70_reset_and_hazards R137). -/
def emitTelemetry (ch : Channel) (k : ReadingType) (v : BitVec 32) (s : State) : State :=
  { s with sink := s.sink ++ [⟨ch, k, v⟩] }

/-- The engine disabled, `cur` advanced, `eng_pin` set for it, the engine enabled again; with one channel, nothing
(42_channel_mux R96, R100). -/
def selectNext (s : State) : State :=
  if 1 < s.cfg.n.toNat then
    let c := nextChannel s
    setEngEn true (setEngPin (pinOf s.cfg c) (setCur c (setEngEn false s)))
  else s

/-- The idle test of the watchdog, strict (44_watchdog_stats R108). -/
def isIdle (s : State) : Bool := decide (s.cfg.idleTimeout.toNat < s.now - s.lastCmd)

/-- A Motor forced to neutral, its repeat overridden, its counters kept (44_watchdog_stats R108). -/
def Motor.forced (m : Motor) : Motor :=
  { m with frame := neutral, fallback := neutral, repeats := 0 }

/-- `WATCHDOG()`'s write to every channel (44_watchdog_stats R108). -/
def forceNeutral (s : State) : State := { s with motors := s.motors.map Motor.forced }

/-- `WATCHDOG()`: the state after it; it fired exactly when `isIdle` held before (44_watchdog_stats R108). -/
def watchdog (s : State) : State := if isIdle s then forceNeutral s else s

/-- `cnt <- cnt + 1`, modulo `2 ^ CNT_WIDTH` (00_scope R13). -/
def bump (w cnt : Nat) : Nat := (cnt + 1) % 2 ^ w

/-- The one counter a completion with result `r` increments (42_channel_mux R98, 60_exceptions R114). -/
def Motor.count (m : Motor) (w : Nat) : Res → Motor
  | .ok => { m with good := bump w m.good }
  | .timeout => { m with timeouts := bump w m.timeouts }
  | .badGcr => { m with badGcr := bump w m.badGcr }
  | .badCrc => { m with badCrc := bump w m.badCrc }
  | .unsupported => { m with badType := bump w m.badType }
  | .zeroErpm => { m with badType := bump w m.badType }

/-- The repeat countdown of a Motor whose frame was sent: at the last repeat the frame reverts to the fallback
(42_channel_mux R96). -/
def Motor.countDown (m : Motor) : Motor :=
  if m.repeats = 0 then m
  else if m.repeats = 1 then { m with repeats := 0, frame := m.fallback }
  else { m with repeats := m.repeats - 1 }

end Sys2Proof.Machine
end

