-- ==== Sys2Proof/Machine/Demod.lean ====
section
/-! DEFINITION. The functions of the telemetry demodulator and classifier (spec/41_telemetry.md R84, R85 to R91;
spec/30_encoding.md R65, R66; spec/20_memory.md R47). -/

namespace Sys2Proof.Machine

/-- `gcr = (raw ^ (raw >> 1)) & 0xFFFFF` (30_encoding R65). -/
def gcrWord (raw : RxWord) : BitVec 20 := (raw ^^^ (raw >>> 1)).setWidth 20

/-- Symbol `i` of the GCR word, `gcr[5i+4 : 5i]` (20_memory R47). -/
def gcrSymbolAt (g : BitVec 20) (i : Nat) : Symbol := g.extractLsb' (5 * i) 5

/-- The four nibbles of an EDT frame, nibble 3 in the high bits (41_telemetry R84). -/
def joinNibbles (n3 n2 n1 n0 : Nibble) : Frame := n3 ++ n2 ++ n1 ++ n0

/-- The EDT frame of a GCR word, none when a symbol has no nibble (41_telemetry R84). -/
def edtFrame (c : Config) (g : BitVec 20) : Option Frame :=
  match gcrInv c (gcrSymbolAt g 3), gcrInv c (gcrSymbolAt g 2), gcrInv c (gcrSymbolAt g 1), gcrInv c (gcrSymbolAt g 0) with
  | some n3, some n2, some n1, some n0 => some (joinNibbles n3 n2 n1 n0)
  | _, _, _, _ => none

/-- `TLM_DECODE_FN(raw32)` (41_telemetry R84). -/
def tlmDecodeFn (c : Config) (raw : RxWord) : Res × Frame :=
  if raw = 0 then (.timeout, 0)
  else
    match edtFrame c (gcrWord raw) with
    | none => (.badGcr, 0)
    | some f => if frameCrcOk f then (.ok, f) else (.badCrc, f)

/-- A result, with the type and value of the reading it produces when it is OK (41_telemetry R85, R91). -/
structure Tlm where
  res : Res
  kind : ReadingType
  value : BitVec 32
deriving DecidableEq, Repr

/-- `m << e`, the raw value of an eRPM word: exponent `d12[11:9]`, mantissa `d12[8:0]` (41_telemetry R90). -/
def erpmRaw (d : Data12) : Nat := (d.extractLsb' 0 9).toNat <<< (d.extractLsb' 9 3).toNat

/-- `ERPM_FN(d12)` (41_telemetry R90). -/
def erpmFn (d : Data12) : Tlm :=
  if erpmRaw d = 0xFF80 then ⟨.ok, .erpm, 0⟩
  else if erpmRaw d = 0 then ⟨.zeroErpm, .erpm, 0⟩
  else ⟨.ok, .erpm, BitVec.ofNat 32 (60000000 / erpmRaw d)⟩

/-- The 8-bit EDT value `d12[7:0]` (30_encoding R66). -/
def edtValue (d : Data12) : BitVec 8 := d.extractLsb' 0 8

/-- `CLASSIFY_FN(d12)`, by the class of the type nibble `d12[11:8]` (41_telemetry R85 to R90). -/
def classifyFn (c : Config) (d : Data12) : Tlm :=
  match edtClassOf c (d.extractLsb' 8 4) with
  | .temp => ⟨.ok, .temperature, (edtValue d).setWidth 32⟩
  | .volt => ⟨.ok, .voltage, BitVec.ofNat 32 ((edtValue d).toNat / 4)⟩
  | .current => ⟨.ok, .current, (edtValue d).setWidth 32⟩
  | .unsupported => ⟨.unsupported, .erpm, 0⟩
  | .erpm => erpmFn d

/-- `TLM_FN(raw32)` (41_telemetry R91). -/
def tlmFn (c : Config) (raw : RxWord) : Tlm :=
  match tlmDecodeFn c raw with
  | (.ok, f) => classifyFn c (upper12 f)
  | (r, _) => ⟨r, .erpm, 0⟩

end Sys2Proof.Machine
end

