-- ==== Sys2Proof/Machine/Mux.lean ====
section
/-! DEFINITION. The channel multiplexer: TICK_START, TICK_COMPLETE and TICK (spec/42_channel_mux.md R95 to R100), and a
held completion (spec/70_reset_and_hazards.md R136). -/

namespace Sys2Proof.Machine

/-- The served Motor's frame pushed with its gap, then the repeat countdown (42_channel_mux R96, R97). -/
def sendFrame (m : Motor) (s : State) : State :=
  setMotor s.cur m.countDown (engPush m.frame (gapOfSpeed s.cfg) s)

/-- TICK_START's effect after its phase check, without the response: the state after it, and whether a frame was sent;
none when `cur` selects no Motor record (42_channel_mux R96). -/
def startPhase (s : State) : Option (State × Bool) :=
  let s1 := selectNext s
  if engTxFree s1 then (motorAt s1 s1.cur).map fun m => (setPhase .started (sendFrame m s1), true)
  else some (setPhase .started s1, false)

/-- A reading is emitted exactly when the result is OK (42_channel_mux R98). -/
def deliver (t : Tlm) (s : State) : State :=
  if t.res = .ok then emitTelemetry s.cur t.kind t.value s else s

/-- The state after the decode of a completion: the reading emitted, then the one counter of `M[cur]`, read as `m`,
incremented (42_channel_mux R98; the order of 20_memory R55). -/
def countWord (raw : RxWord) (m : Motor) (s : State) : State :=
  setMotor s.cur (m.count s.cfg.cntWidth (tlmFn s.cfg raw).res) (deliver (tlmFn s.cfg raw) s)

/-- The state after a completion with the receive word popped and `M[cur]` read as `m`: decode, emit, count, watchdog,
phase IDLE, response (42_channel_mux R98). -/
def completed (h : Held) (raw : RxWord) (m : Motor) (s : State) : State :=
  respond .ok (heldData h (tickCompleteData (isIdle s) (tlmFn s.cfg raw).res s.cur))
    (setHeld none (setPhase .idle (watchdog (countWord raw m s))))

/-- A completion with the receive word popped. -/
def completeWith (h : Held) (raw : RxWord) (s : State) : Result :=
  withMotor s.cur s fun m => .next (completed h raw m s)

/-- A completion: hold until the receive slot has a word, with no state written (42_channel_mux R98, 70 R136). -/
def completeOrHold (h : Held) (s : State) : Result :=
  match engPop s with
  | none => .next (setHeld (some h) s)
  | some (raw, s1) => completeWith h raw s1

/-- TICK_START (42_channel_mux R96). -/
def execTickStart (s : State) : Result :=
  if s.phase = .idle then
    match startPhase s with
    | some (s1, sent) => .next (respond .ok (tickStartData sent s1.cur) s1)
    | none => .fault .noMotorRecord
  else .refused .wrongPhase

/-- TICK_COMPLETE (42_channel_mux R98). -/
def execTickComplete (s : State) : Result :=
  if s.phase = .started then completeOrHold .complete s else .refused .wrongPhase

/-- TICK: both parts back to back, the complete part possibly held (42_channel_mux R99). -/
def execTick (s : State) : Result :=
  if s.phase = .idle then
    match startPhase s with
    | some (s1, sent) => completeOrHold (.tick (tickStartData sent s1.cur)) s1
    | none => .fault .noMotorRecord
  else .refused .wrongPhase

end Sys2Proof.Machine
end

