-- ==== Sys2Proof/Machine/Agents.lean ====
section
/-! DEFINITION. What happens around a request: the engine agent's own step (spec/60_exceptions.md R122 to R124), the
acceptance of a request by the block (spec/10_state.md R34, R35; spec/60_exceptions.md R115, R120), the wait of a held
request (spec/70_reset_and_hazards.md R136), and whose turn it is (log 1, log 2). -/

namespace Sys2Proof.Machine

/-- The engine sends the oldest frame of its slot on `eng_pin` at `eng_speed`, while it is enabled (60_exceptions R122;
log 14). With nothing to send, or disabled, nothing happens. -/
def engineTransmit (s : State) : State :=
  match s.engine.txSlot with
  | [] => s
  | e :: rest =>
    if s.engEn then
      { s with engine :=
          { s.engine with txSlot := rest, wire := s.engine.wire ++ [⟨s.engPin, s.cfg.speed, e.frame, e.gap⟩] } }
    else s

/-- The engine places a word at the end of its receive slot; a full slot takes none (60_exceptions R124; log 5). -/
def enginePlace (w : RxWord) (s : State) : State :=
  if s.engine.rxSlot.length < s.cfg.engRxDepth then
    { s with engine := { s.engine with rxSlot := s.engine.rxSlot ++ [w] } }
  else s

/-- The engine changes its report of room (60_exceptions R122, R123). -/
def engineReport (free : Bool) (s : State) : State := { s with engine := { s.engine with txReport := free } }

/-- The engine agent's step (60_exceptions R122). -/
def engineMove : EngineMove → State → State
  | .transmit, s => engineTransmit s
  | .place w, s => enginePlace w s
  | .report free, s => engineReport free s

/-- What the environment will still do, written whole. -/
def setInputs (xs : List Input) (s : State) : State := { s with inputs := xs }

/-- The first engine move of a list of inputs, and the list without it: while a request is held the requester waits and
the engine goes on (log 2). -/
def takeEngineMove : List Input → Option (EngineMove × List Input)
  | [] => none
  | .engine m :: rest => some (m, rest)
  | .request w t :: rest => (takeEngineMove rest).map fun p => (p.1, .request w t :: p.2)

/-- The turn of a state in which a request is held: it completes once a word is ready; until then only the engine
moves, and if it never places a word nothing changes for ever (70_reset_and_hazards R136). -/
def heldTurn (h : Held) (s : State) : Result :=
  if engRxReady s then completeOrHold h s
  else
    match takeEngineMove s.inputs with
    | none => .next s
    | some (m, rest) => .next (engineMove m (setInputs rest s))

/-- The block samples `now` with a request and its response port no longer holds the last answer (10_state R34 to
R36). -/
def sample (t : Micros) (s : State) : State := { s with now := t, response := none }

/-- What is to be done in a state: perform an accepted operation in a state, or an outcome already settled. -/
inductive Turn where
  | perform (i : Instr) (s : State)
  | settled (r : Result)

/-- The block takes the request at its port: its time may not run backwards (60_exceptions R120; log 11) and a reserved
word is refused before anything else (60_exceptions R115). -/
def acceptRequest (w : ReqWord) (t : Micros) (s : State) : Turn :=
  if t < s.now then .settled (.refused .timeBackwards)
  else
    match decode w with
    | .reserved why => .settled (.refused (.reservedWord why))
    | .instr i => .perform i (sample t s)

/-- Whose turn it is: a held request first; else the next input; with no input, nothing happens. -/
def turn (s : State) : Turn :=
  match s.held with
  | some h => .settled (heldTurn h s)
  | none =>
    match s.inputs with
    | [] => .settled (.next s)
    | .engine m :: rest => .settled (.next (engineMove m (setInputs rest s)))
    | .request w t :: rest => acceptRequest w t (setInputs rest s)

/-- A request word put at the head of the inputs, with the time last sampled, and no request held: the very next step
accepts it (log 18). -/
def placeRequest (w : ReqWord) (s : State) : State :=
  { s with held := none, inputs := .request w s.now :: s.inputs }

/-- Construction of a Controller (70_reset_and_hazards R129): refused when a parameter breaks one of the three constraints
of 00_scope R9, and, as the model's own choice (DESIGN CHOICE, log 23), when one is outside any other of its ranges. -/
def newController (cfg : Config) (eng : Engine) (now0 : Micros) : Result :=
  if cfg.Wf then .next (State.construct cfg eng now0) else .refused .badParameters

end Sys2Proof.Machine
end

