-- ==== Sys2Proof/Machine/Codec.lean ====
section
/-! DEFINITION. The frame codec operations CRC4, ENCODE and FRAME_DECODE (spec/40_frame_codec.md R77, R78, R79): pure,
no port, no state but the response. -/

namespace Sys2Proof.Machine

/-- CRC4 (40_frame_codec R77). -/
def execCrc4 (p : BitVec 12) (s : State) : Result := answer ((crc4 p).setWidth 32) s

/-- ENCODE (40_frame_codec R78). -/
def execEncode (v : BitVec 11) (t : Bool) (s : State) : Result := answer ((encodeFrame v t).setWidth 32) s

/-- FRAME_DECODE (40_frame_codec R79). -/
def execFrameDecode (f : BitVec 16) (s : State) : Result :=
  answer (frameDecodeData (frameCrcOk f) (frameTlm f) (frameValue f)) s

end Sys2Proof.Machine
end

