-- ==== Sys2Proof/Machine/Command.lean ====
section
/-! DEFINITION. THROTTLE and COMMAND (spec/43_command_api.md R104, R105). -/

namespace Sys2Proof.Machine

/-- The Motor after `THROTTLE`: frame and fallback set, the repeat cleared (43_command_api R104). -/
def Motor.throttled (m : Motor) (f : Frame) : Motor := { m with frame := f, fallback := f, repeats := 0 }

/-- The Motor after `COMMAND`: frame set, the repeat armed, the fallback kept (43_command_api R105). -/
def Motor.commanded (m : Motor) (f : Frame) (n : BitVec 8) : Motor := { m with frame := f, repeats := n }

/-- THROTTLE (43_command_api R104). -/
def execThrottle (ch : BitVec 8) (v : BitVec 11) (s : State) : Result :=
  onChannel ch s fun m =>
    .next (respond .ok 0 (touchLastCmd (setMotor ch (m.throttled (encodeFrame v false)) s)))

/-- COMMAND (43_command_api R105). The reserved code is refused before the channel is checked. -/
def execCommand (ch : BitVec 8) (k : BitVec 6) (s : State) : Result :=
  if 47 < k.toNat then .refused (.reservedWord .commandCode)
  else
    onChannel ch s fun m =>
      .next (respond .ok 0
        (touchLastCmd (setMotor ch (m.commanded (encodeFrame (k.setWidth 11) true) s.cfg.repeatCount) s)))

end Sys2Proof.Machine
end

