-- ==== Sys2Proof/Machine/Stats.lean ====
section
/-! DEFINITION. READ_STAT and NOP (spec/44_watchdog_stats.md R110, R111). -/

namespace Sys2Proof.Machine

/-- READ_STAT: the low 32 bits of the selected field (44_watchdog_stats R110). -/
def execReadStat (ch : BitVec 8) (sel : StatSel) (s : State) : Result :=
  onChannel ch s fun m => answer (BitVec.ofNat 32 (m.stat sel)) s

/-- NOP (44_watchdog_stats R111). -/
def execNop (s : State) : Result := answer 0 s

end Sys2Proof.Machine
end

