-- ==== Sys2Proof/Machine/Telemetry.lean ====
section
/-! DEFINITION. The telemetry operations GCR_SYMBOL, TLM_DECODE and TLM_CLASSIFY (spec/41_telemetry.md R83, R84, R85):
pure, no port, no counter, no state but the response. -/

namespace Sys2Proof.Machine

/-- GCR_SYMBOL (41_telemetry R83). -/
def execGcrSymbol (y : BitVec 5) (s : State) : Result := answer (gcrSymbolData (gcrInv s.cfg y)) s

/-- TLM_DECODE (41_telemetry R84). -/
def execTlmDecode (w : BitVec 32) (s : State) : Result :=
  answer (tlmDecodeData (tlmDecodeFn s.cfg w).1 (tlmDecodeFn s.cfg w).2) s

/-- TLM_CLASSIFY (41_telemetry R85). -/
def execTlmClassify (d : BitVec 12) (s : State) : Result :=
  answer (tlmClassifyData (classifyFn s.cfg d).res (classifyFn s.cfg d).kind (classifyFn s.cfg d).value) s

end Sys2Proof.Machine
end

