-- ==== Sys2Proof/Machine/Dispatch.lean ====
section
/-! DEFINITION. One arm per operation of spec/opcode_table.json. -/

namespace Sys2Proof.Machine

/-- Performs one accepted request (spec/30_encoding.md R69). -/
def exec (i : Instr) (s : State) : Host.Outcome State Fault Refusal :=
  match i with
  | .nop => Sys2Proof.Machine.execNop s
  | .crc4 p => Sys2Proof.Machine.execCrc4 p s
  | .encode v t => Sys2Proof.Machine.execEncode v t s
  | .frameDecode f => Sys2Proof.Machine.execFrameDecode f s
  | .gcrSymbol y => Sys2Proof.Machine.execGcrSymbol y s
  | .tlmDecode w => Sys2Proof.Machine.execTlmDecode w s
  | .tlmClassify d => Sys2Proof.Machine.execTlmClassify d s
  | .throttle ch v => Sys2Proof.Machine.execThrottle ch v s
  | .command ch k => Sys2Proof.Machine.execCommand ch k s
  | .tickStart => Sys2Proof.Machine.execTickStart s
  | .tickComplete => Sys2Proof.Machine.execTickComplete s
  | .tick => Sys2Proof.Machine.execTick s
  | .readStat ch sel => Sys2Proof.Machine.execReadStat ch sel s

end Sys2Proof.Machine
end

