-- ==== Sys2Proof/Machine/Step.lean ====
section
/-! DEFINITION. One step: the turn `Machine/Agents.lean` finds, and where it is a request's, the operation it names
(spec/10_state.md R34; spec/20_memory.md R51, R53). -/

namespace Sys2Proof.Machine

/-- One step of the Controller and its environment. -/
def step (s : State) : Host.Outcome State Fault Refusal :=
  match turn s with
  | .perform i s1 => exec i s1
  | .settled r => r

/-- The state whose next step performs the request word `w` (of which the opcode table gives `nbits` bits). The machine
fetches nothing (10_state R27): the requester supplies the word (log 18). -/
def State.withFetchWord (s : State) (nbits w : Nat) : State :=
  placeRequest (BitVec.ofNat 64 (w % 2 ^ nbits)) s

end Sys2Proof.Machine
end

