-- ==== Sys2Proof/Machine/System.lean ====
section
/-! DEFINITION. Several Controllers: independent instances that share no state (spec/00_scope.md R3;
spec/60_exceptions.md R126; log 19). -/

namespace Sys2Proof.Machine

/-- A system of Controllers, each with its own parameters, engine, sink and requests. -/
abbrev System := List State

/-- One step of instance `k`; none when there is no such instance. The other instances stay as they are. -/
def systemStep (k : Nat) (sys : System) : Option (Host.Outcome System Fault Refusal) :=
  match sys[k]? with
  | none => none
  | some s =>
    match step s with
    | .next s1 => some (.next (sys.set k s1))
    | .fault f => some (.fault f)
    | .refused r => some (.refused r)

end Sys2Proof.Machine
end

