-- ==== Sys2Proof/Safety.lean ====
section
/-! DEFINITION. What a sound state is, and what is seen of a run, in the terms the statements use: the invariants of
spec/10_state.md R22, R24, R25, R28, R31, and observations made of two neighbouring states of a run (a frame pushed, a
word popped, a channel served), which do not look inside the meanings. -/

namespace Sys2Proof.Machine

/-- A Motor record as its registers allow it: both frames with a valid CRC (10_state R24), frame and fallback equal when
no repeat is owed (R25), the repeat at most REPEAT_COUNT and each counter within its width (R22). -/
structure Motor.Wf (c : Config) (m : Motor) : Prop where
  frame_crc : frameCrcOk m.frame = true
  fallback_crc : frameCrcOk m.fallback = true
  repeats_zero : m.repeats = 0 → m.frame = m.fallback
  repeats_le : m.repeats.toNat ≤ c.repeatCount.toNat
  good_lt : m.good < 2 ^ c.cntWidth
  badGcr_lt : m.badGcr < 2 ^ c.cntWidth
  badCrc_lt : m.badCrc < 2 ^ c.cntWidth
  badType_lt : m.badType < 2 ^ c.cntWidth
  timeouts_lt : m.timeouts < 2 ^ c.cntWidth

/-- The engine's slots within their depths (20_memory R54). -/
structure Engine.Wf (c : Config) (e : Engine) : Prop where
  tx_le : e.txSlot.length ≤ c.engTxDepth
  rx_le : e.rxSlot.length ≤ c.engRxDepth

/-- The invariant of the machine. -/
structure State.Wf (s : State) : Prop where
  /-- The parameters meet their constraints (00_scope R8, R9; 10_state R21). -/
  cfg : s.cfg.Wf
  /-- One Motor record for each channel (10_state R22). -/
  motors_length : s.motors.length = s.cfg.n.toNat
  /-- Every Motor record is sound (10_state R22, R24, R25). -/
  motors : ∀ m ∈ s.motors, m.Wf s.cfg
  /-- The served channel is a channel (10_state R28). -/
  cur_lt : s.cur.toNat < s.cfg.n.toNat
  /-- The engine is enabled between requests (10_state R31, 42_channel_mux R96). -/
  engEn : s.engEn = true
  /-- The engine is on the served channel's pin (10_state R31, R40). -/
  engPin : s.engPin.toNat = s.cfg.pinBase.toNat + s.cur.toNat
  /-- Time does not run backwards (00_scope R13, 60_exceptions R120). -/
  lastCmd_le : s.lastCmd ≤ s.now
  /-- The engine's slots are within their depths (20_memory R54). -/
  engine : s.engine.Wf s.cfg
  /-- Only a tick in its complete part is held (00_scope R15(c), 42_channel_mux R98, R99). -/
  held : s.held.isSome = true → s.phase = .started

/-- The reserved words, from the "must be 0" columns of 30_encoding R69 and the three cases of R73, on the word as a
natural: `OP` is `w / 2^60`, `CH` is `w / 2^52 % 2^8`, `RSV` is `w / 2^32 % 2^20` and `A` is `w % 2^32`. -/
def IsReservedWord (w : ReqWord) : Prop :=
  let op := w.toNat / 2 ^ 60
  let ch := w.toNat / 2 ^ 52 % 2 ^ 8
  let rsv := w.toNat / 2 ^ 32 % 2 ^ 20
  let a := w.toNat % 2 ^ 32
  13 ≤ op ∨ rsv ≠ 0 ∨
  (op ≠ 7 ∧ op ≠ 8 ∧ op ≠ 12 ∧ ch ≠ 0) ∨
  ((op = 0 ∨ op = 9 ∨ op = 10 ∨ op = 11) ∧ a ≠ 0) ∨
  ((op = 1 ∨ op = 2 ∨ op = 6) ∧ 2 ^ 12 ≤ a) ∨
  (op = 3 ∧ 2 ^ 16 ≤ a) ∨
  (op = 4 ∧ 2 ^ 5 ≤ a) ∨
  (op = 7 ∧ 2 ^ 11 ≤ a) ∨
  (op = 8 ∧ 48 ≤ a) ∨
  (op = 12 ∧ 2 ^ 3 ≤ a)

/-- The channel a start phase serves: the next in the round, or the only one (42_channel_mux R96, R100). -/
def servedNext (s : State) : Nat :=
  if 1 < s.cfg.n.toNat then (s.cur.toNat + 1) % s.cfg.n.toNat else s.cur.toNat

/-- The request the block accepts in this state, as the operation it names; none when another turn comes. -/
def accepted (s : State) : Option Instr :=
  match turn s with
  | .perform i _ => some i
  | .settled _ => none

/-- The request accepted in this state runs a start phase. -/
def startsTick (s : State) : Bool := accepted s == some .tickStart || accepted s == some .tick

/-- The list of states `run` follows `s`, each the next of the one before. -/
def IsRun : State → List State → Prop
  | _, [] => True
  | s, t :: rest => step s = .next t ∧ IsRun t rest

/-- The neighbouring pairs of states of a run. -/
def stepsOf : State → List State → List (State × State)
  | _, [] => []
  | s, t :: rest => (s, t) :: stepsOf t rest

/-- The last state of a run. -/
def lastOf : State → List State → State
  | s, [] => s
  | _, t :: rest => lastOf t rest

/-- The frames the engine's transmit slot gained between two neighbouring states. -/
def pushedIn (s t : State) : List TxEntry := t.engine.txSlot.drop s.engine.txSlot.length

/-- The receive slot lost a word to the block between two neighbouring states: a completion. -/
def poppedIn (s t : State) : Bool := decide (t.engine.rxSlot.length < s.engine.rxSlot.length)

/-- The watchdog fired between two neighbouring states: a completion, idle past the threshold (44_watchdog_stats R108). -/
def watchdogFiredIn (s t : State) : Bool := poppedIn s t && isIdle t

/-- The channels served in a run, in order: one for each start phase (42_channel_mux R96). -/
def servedIn : State → List State → List Nat
  | _, [] => []
  | s, t :: rest => (if startsTick s then [t.cur.toNat] else []) ++ servedIn t rest

/-- The frames sent on channel `c` in a run, in order, whichever service sent them. -/
def framesSentOn (c : Nat) : State → List State → List Frame
  | _, [] => []
  | s, t :: rest =>
    (if t.cur.toNat = c then (pushedIn s t).map TxEntry.frame else []) ++ framesSentOn c t rest

/-- What each service of channel `c` in a run sent: a frame, or none when the transmit slot was not free. -/
def servicesOf (c : Nat) : State → List State → List (Option Frame)
  | _, [] => []
  | s, t :: rest =>
    (if startsTick s && t.cur.toNat == c then [(pushedIn s t).head?.map TxEntry.frame] else []) ++ servicesOf c t rest

/-- No THROTTLE or COMMAND on channel `c` is accepted in this state. -/
def noCommandOn (c : Channel) (s : State) : Prop :=
  (∀ v, accepted s ≠ some (.throttle c v)) ∧ (∀ k, accepted s ≠ some (.command c k))

/-- The request entries of what the environment will still do, in order. -/
def requestsOf (xs : List Input) : List Input :=
  xs.filter fun x => match x with
    | .request _ _ => true
    | .engine _ => false

/-- The five receive statistics of a Motor, in READ_STAT's order (30_encoding R70). -/
def Motor.counters (m : Motor) : List Nat := [m.good, m.badGcr, m.badCrc, m.badType, m.timeouts]

/-- The raw word whose differential decoding is `g`: `raw[19] = g[19]` and `raw[i] = g[i] ^ raw[i+1]` below
(41_telemetry R94). -/
def IsInvDiff (g raw : BitVec 20) : Prop :=
  raw.getLsbD 19 = g.getLsbD 19 ∧
  ∀ i, i < 19 → raw.getLsbD i = (g.getLsbD i ^^ raw.getLsbD (i + 1))

/-- The GCR word an ESC builds for an EDT frame: the symbol of nibble `i` at bits `5i+4 : 5i` (41_telemetry R94). -/
def escGcrWord (c : Config) (f : Frame) : BitVec 20 :=
  gcrSymbolOf c (f.extractLsb' 12 4) ++ gcrSymbolOf c (f.extractLsb' 8 4) ++
    gcrSymbolOf c (f.extractLsb' 4 4) ++ gcrSymbolOf c (f.extractLsb' 0 4)

end Sys2Proof.Machine
end

