-- ==== Sys2Proof/Certificates/Slice0/Obligations.lean ====
section
/-! DEFINITION. The statements for the provers, rule by rule of spec/. A response's data and a frame are written as
naturals, from the rules' own formulas; `{ s with … }` states an operation's whole effect and its whole frame. -/

open Sys2Proof Sys2Proof.Machine

-- ==== encoding (30_encoding R68 to R76) ====

/-- Decoding the word of a well-formed operation gives it back, with every operand at every value (30_encoding R69,
R70, R76). -/
def Obligations.DecodeOfEncode : Prop :=
  ∀ i : Instr, i.wellFormed = true → decode (Sys2Proof.encode i) = .instr i

/-- A word that decodes is the word of the well-formed operation it decodes to, and no other (30_encoding R69, R73). -/
def Obligations.EncodeOfDecode : Prop :=
  ∀ (w : ReqWord) (i : Instr), decode w = .instr i → i.wellFormed = true ∧ Sys2Proof.encode i = w

/-- A request is refused as a reserved word exactly when its word is reserved (30_encoding R73), whatever the phase and
the channel. Refusal is the spec's decision D15. -/
def Obligations.ReservedWordsRefused : Prop :=
  ∀ (s : State) (w : ReqWord) (t : Micros) (rest : List Input),
    s.held = none → s.inputs = .request w t :: rest → s.now ≤ t →
    ((∃ why, step s = .refused (.reservedWord why)) ↔ IsReservedWord w)

/-- Words written out from 30_encoding R69 decode to the operations they stand for, one for each family. -/
def Obligations.DecodeSampleWords : Prop :=
  decode 0x1000000000000123 = .instr (.crc4 0x123) ∧
  decode 0x2000000000000C16 = .instr (.encode 0x416 true) ∧
  decode 0x4000000000000019 = .instr (.gcrSymbol 0x19) ∧
  decode 0x7FF00000000007FF = .instr (.throttle 255 2047) ∧
  decode 0x809000000000002F = .instr (.command 9 47) ∧
  decode 0x9000000000000000 = .instr .tickStart ∧
  decode 0xC020000000000006 = .instr (.readStat 2 .fallback)

/-- A step performs the request at the port: with no request held, the time not before the last sample and the word
that of an operation, the step is that operation, in the state in which the request is taken, `now` is sampled and the
response port is empty (10_state R34, R35). -/
def Obligations.StepPerformsRequest : Prop :=
  ∀ (s : State) (w : ReqWord) (t : Micros) (rest : List Input) (i : Instr),
    s.held = none → s.inputs = .request w t :: rest → s.now ≤ t → decode w = .instr i →
    step s = exec i { s with inputs := rest, now := t, response := none }

/-- The step after `withFetchWord` performs exactly that word's operation (log 18). -/
def Obligations.FetchWordPerformed : Prop :=
  ∀ (s : State) (w : ReqWord) (i : Instr), decode w = .instr i →
    step (s.withFetchWord 64 w.toNat) = exec i { s with held := none, response := none }

-- ==== frame codec (40_frame_codec R77 to R82) ====

/-- CRC4 (40_frame_codec R77): the data is the complement of the XOR of the three nibbles, nothing else changes; its
encoding. -/
def Obligations.CrcResult : Prop :=
  (∀ (p : BitVec 12) (s : State),
    exec (.crc4 p) s = .next { s with
      response := some ⟨.ok, BitVec.ofNat 32 (15 ^^^ p.toNat % 16 ^^^ p.toNat / 16 % 16 ^^^ p.toNat / 256)⟩ }) ∧
  (∀ p : BitVec 12, decode (BitVec.ofNat 64 (0x1 * 2 ^ 60 + p.toNat)) = .instr (.crc4 p))

/-- ENCODE (40_frame_codec R78): `p12 = 2 V + T`, the frame is `16 p12` plus the CRC of `p12`; its encoding. -/
def Obligations.EncodeResult : Prop :=
  (∀ (v : BitVec 11) (b : Bool) (s : State),
    let p := 2 * v.toNat + b.toNat
    exec (.encode v b) s = .next { s with
      response := some ⟨.ok, BitVec.ofNat 32 (16 * p + (15 ^^^ p % 16 ^^^ p / 16 % 16 ^^^ p / 256))⟩ }) ∧
  (∀ (v : BitVec 11) (b : Bool),
    decode (BitVec.ofNat 64 (0x2 * 2 ^ 60 + b.toNat * 2 ^ 11 + v.toNat)) = .instr (.encode v b))

/-- FRAME_DECODE (40_frame_codec R79; the operation is the spec's decision D20): value, tlm and crc_ok of any 16-bit
frame; its encoding. -/
def Obligations.FrameDecodeResult : Prop :=
  (∀ (f : BitVec 16) (s : State),
    let n := f.toNat
    exec (.frameDecode f) s = .next { s with
      response := some ⟨.ok, BitVec.ofNat 32
        ((if n % 16 = 15 ^^^ n / 16 % 16 ^^^ n / 256 % 16 ^^^ n / 4096 then 2 ^ 16 else 0) +
          n / 16 % 2 * 2 ^ 11 + n / 32)⟩ }) ∧
  (∀ f : BitVec 16, decode (BitVec.ofNat 64 (0x3 * 2 ^ 60 + f.toNat)) = .instr (.frameDecode f))

/-- The CRC of an encoded frame is that of its upper 12 bits, and FRAME_DECODE of it gives value, tlm and crc_ok = 1
(40_frame_codec R80, R81). -/
def Obligations.FrameRoundTrip : Prop :=
  ∀ (v : BitVec 11) (b : Bool),
    frameCrc (encodeFrame v b) = crc4 (upper12 (encodeFrame v b)) ∧
    ∀ s : State, exec (.frameDecode (encodeFrame v b)) s = .next { s with
      response := some ⟨.ok, BitVec.ofNat 32 (2 ^ 16 + b.toNat * 2 ^ 11 + v.toNat)⟩ }

/-- One inverted bit of a valid frame makes FRAME_DECODE answer crc_ok = 0; the pair of bits 4 and 8 goes undetected
(40_frame_codec R82). -/
def Obligations.SingleBitErrorDetected : Prop :=
  ∀ (f : BitVec 16) (s : State), frameCrcOk f = true →
    (∀ i < 16, ∃ d, exec (.frameDecode (f ^^^ BitVec.twoPow 16 i)) s =
      .next { s with response := some ⟨.ok, d⟩ } ∧ d.getLsbD 16 = false) ∧
    (∃ d, exec (.frameDecode (f ^^^ 0x0110)) s =
      .next { s with response := some ⟨.ok, d⟩ } ∧ d.getLsbD 16 = true)

-- ==== telemetry (41_telemetry R83 to R94) ====

/-- `GCR_INV` is the inverse of `GCR_TABLE`, none for every other symbol; under the default table the 16 invalid symbols
are those of 30_encoding R64. The entries of the default table are presumed by the spec, from general knowledge: log 9. -/
def Obligations.GcrInverse : Prop :=
  (∀ c : Config, c.Wf →
    (∀ n : Nibble, gcrInv c (gcrSymbolOf c n) = some n) ∧
    (∀ y : Symbol, (∀ n : Nibble, gcrSymbolOf c n ≠ y) → gcrInv c y = none)) ∧
  (∀ c : Config, c.gcrTable = defaultGcrTable → ∀ y : Symbol,
    gcrInv c y = none ↔ y.toNat ∈ [0x00, 0x01, 0x02, 0x03, 0x04, 0x05, 0x06, 0x07, 0x08, 0x0C, 0x10, 0x11, 0x14, 0x18,
      0x1C, 0x1F])

/-- GCR_SYMBOL (41_telemetry R83): `16 + nibble` for a symbol of the table, 0 for any other; 16 of the 32 symbols are
valid; its encoding. -/
def Obligations.GcrSymbolResult : Prop :=
  (∀ (y : BitVec 5) (s : State), s.cfg.Wf →
    (∀ n : Nibble, gcrSymbolOf s.cfg n = y →
      exec (.gcrSymbol y) s = .next { s with response := some ⟨.ok, BitVec.ofNat 32 (16 + n.toNat)⟩ }) ∧
    ((∀ n : Nibble, gcrSymbolOf s.cfg n ≠ y) →
      exec (.gcrSymbol y) s = .next { s with response := some ⟨.ok, 0⟩ })) ∧
  (∀ c : Config, c.Wf → (List.range 32).countP (fun k => (gcrInv c (BitVec.ofNat 5 k)).isSome) = 16) ∧
  (∀ y : BitVec 5, decode (BitVec.ofNat 64 (0x4 * 2 ^ 60 + y.toNat)) = .instr (.gcrSymbol y))

/-- The receive word (30_encoding R65): zero is a timeout; otherwise only bits 20:0 matter, through
`gcr = (raw ^ (raw >> 1)) & 0xFFFFF`, where bit 20 reaches bit 19. -/
def Obligations.ReceiveWordBits : Prop :=
  (∀ c : Config, tlmDecodeFn c 0 = (.timeout, 0)) ∧
  (∀ w : RxWord, (gcrWord w).toNat = (w.toNat ^^^ w.toNat / 2) % 2 ^ 20) ∧
  (∀ w : RxWord, (gcrWord w).getLsbD 19 = (w.getLsbD 19 ^^ w.getLsbD 20)) ∧
  (∀ (c : Config) (a b : RxWord), a ≠ 0 → b ≠ 0 → a.toNat % 2 ^ 21 = b.toNat % 2 ^ 21 →
    tlmDecodeFn c a = tlmDecodeFn c b)

/-- TLM_DECODE (41_telemetry R84): TIMEOUT for the zero word; BAD_GCR when some symbol of the GCR word is not in the
table; else the frame of the four nibbles, OK or BAD_CRC; its encoding. The order of the four symbols is the spec's decision D13
(20_memory R47), presumed from general knowledge: log 10. -/
def Obligations.TlmDecodeResult : Prop :=
  (∀ (w : BitVec 32) (s : State), s.cfg.Wf →
    let g := (w.toNat ^^^ w.toNat / 2) % 2 ^ 20
    (w = 0 → exec (.tlmDecode w) s = .next { s with response := some ⟨.ok, 0x00010000⟩ }) ∧
    (w ≠ 0 → (∃ i < 4, ∀ n : Nibble, (gcrSymbolOf s.cfg n).toNat ≠ g / 32 ^ i % 32) →
      exec (.tlmDecode w) s = .next { s with response := some ⟨.ok, 0x00020000⟩ }) ∧
    (w ≠ 0 → ∀ n3 n2 n1 n0 : Nibble,
      (gcrSymbolOf s.cfg n0).toNat = g % 32 → (gcrSymbolOf s.cfg n1).toNat = g / 32 % 32 →
      (gcrSymbolOf s.cfg n2).toNat = g / 32 ^ 2 % 32 → (gcrSymbolOf s.cfg n3).toNat = g / 32 ^ 3 % 32 →
      exec (.tlmDecode w) s = .next { s with response := some ⟨.ok, BitVec.ofNat 32
        ((if n0.toNat = 15 ^^^ n1.toNat ^^^ n2.toNat ^^^ n3.toNat then 0 else 3 * 2 ^ 16) +
          (n3.toNat * 4096 + n2.toNat * 256 + n1.toNat * 16 + n0.toNat))⟩ })) ∧
  (∀ w : BitVec 32, decode (BitVec.ofNat 64 (0x5 * 2 ^ 60 + w.toNat)) = .instr (.tlmDecode w))

/-- TLM_CLASSIFY, by the class of the type nibble (41_telemetry R85 to R90; the field positions, the rounding, the zero
eRPM and CURRENT are the spec's decisions D16, D17, D21 and D22); its encoding. -/
def Obligations.TlmClassifyResult : Prop :=
  (∀ (d : BitVec 12) (s : State),
    let x := d.toNat % 256
    let r := d.toNat % 512 * 2 ^ (d.toNat / 512)
    exec (.tlmClassify d) s = .next { s with response := some ⟨.ok, BitVec.ofNat 32
      (match edtClassOf s.cfg (d.extractLsb' 8 4) with
        | .temp => 3 * 2 ^ 26 + x
        | .volt => 1 * 2 ^ 26 + x / 4
        | .current => 2 * 2 ^ 26 + x
        | .unsupported => 4 * 2 ^ 28
        | .erpm => if r = 0xFF80 then 0 else if r = 0 then 5 * 2 ^ 28 else 60000000 / r)⟩ }) ∧
  (∀ d : BitVec 12, decode (BitVec.ofNat 64 (0x6 * 2 ^ 60 + d.toNat)) = .instr (.tlmClassify d))

/-- `TLM_FN`, which the completions use (41_telemetry R91), on what TLM_DECODE and TLM_CLASSIFY answer: a failed decode's
result with no reading, else the classification of the decoded frame's upper 12 bits. -/
def Obligations.CombinedTelemetry : Prop :=
  ∀ (s : State) (raw : RxWord), ∃ d : RespData,
    exec (.tlmDecode raw) s = .next { s with response := some ⟨.ok, d⟩ } ∧
    (d.toNat / 2 ^ 16 ≠ 0 → tlmFn s.cfg raw = ⟨(tlmFn s.cfg raw).res, .erpm, 0⟩ ∧
      (resCode (tlmFn s.cfg raw).res).toNat = d.toNat / 2 ^ 16) ∧
    (d.toNat / 2 ^ 16 = 0 → exec (.tlmClassify (d.extractLsb' 4 12)) s = .next { s with
      response := some ⟨.ok, BitVec.ofNat 32 ((resCode (tlmFn s.cfg raw).res).toNat * 2 ^ 28 +
        (readingCode (tlmFn s.cfg raw).kind).toNat * 2 ^ 26 + (tlmFn s.cfg raw).value.toNat)⟩ })

/-- With a map that assigns CURRENT to no nibble, as the default map does, no reading of type 2 is ever produced
(41_telemetry R88; the spec's decision D17; the default map is log 9). -/
def Obligations.CurrentNeedsTheMap : Prop :=
  (∀ n : Nibble, edtClassOf defaultConfig n ≠ .current) ∧
  (∀ s t : State, (∀ n : Nibble, edtClassOf s.cfg n ≠ .current) → step s = .next t →
    ∃ new : List Reading, t.sink = s.sink ++ new ∧ ∀ r ∈ new, r.kind ≠ .current)

/-- The ESC's encoding of a frame with a valid CRC is decoded back to it: `g` is the word of the four symbols, `raw` its
prefix XOR (41_telemetry R94). The ESC's side is not in the spec's source, and the order of the symbols is the spec's
decision D13, presumed from general knowledge: log 10. -/
def Obligations.EscEncodingLaw : Prop :=
  (∀ g : BitVec 20, ∃ raw, IsInvDiff g raw) ∧
  (∀ g raw : BitVec 20, IsInvDiff g raw → gcrWord (raw.setWidth 32) = g) ∧
  (∀ (c : Config) (f : Frame), (escGcrWord c f).toNat =
    (gcrSymbolOf c (f.extractLsb' 0 4)).toNat + (gcrSymbolOf c (f.extractLsb' 4 4)).toNat * 2 ^ 5 +
    (gcrSymbolOf c (f.extractLsb' 8 4)).toNat * 2 ^ 10 + (gcrSymbolOf c (f.extractLsb' 12 4)).toNat * 2 ^ 15) ∧
  (∀ (c : Config) (f : Frame) (raw : BitVec 20), c.Wf → frameCrcOk f = true → IsInvDiff (escGcrWord c f) raw →
    raw ≠ 0 → tlmDecodeFn c (raw.setWidth 32) = (.ok, f))

-- ==== commands (43_command_api R104 to R107) ====

/-- THROTTLE (43_command_api R104): on a channel of the Controller, frame and fallback are `ENCODE(V, 0)`, the repeat is
0 and `last_cmd` is `now`; on any other channel the answer is IGNORED and nothing else changes; its encoding. -/
def Obligations.ThrottleResult : Prop :=
  (∀ (ch : BitVec 8) (v : BitVec 11) (s : State) (m : Motor),
    ch.toNat < s.cfg.n.toNat → s.motors[ch.toNat]? = some m →
    exec (.throttle ch v) s = .next { s with
      motors := s.motors.set ch.toNat
        { m with frame := encodeFrame v false, fallback := encodeFrame v false, repeats := 0 },
      lastCmd := s.now,
      response := some ⟨.ok, 0⟩ }) ∧
  (∀ (ch : BitVec 8) (v : BitVec 11) (s : State), s.cfg.n.toNat ≤ ch.toNat →
    exec (.throttle ch v) s = .next { s with response := some ⟨.ignored, 0⟩ }) ∧
  (∀ (ch : BitVec 8) (v : BitVec 11),
    decode (BitVec.ofNat 64 (0x7 * 2 ^ 60 + ch.toNat * 2 ^ 52 + v.toNat)) = .instr (.throttle ch v))

/-- COMMAND (43_command_api R105; the order of the two checks is the spec's decision D15): on a channel of the Controller, frame is `ENCODE(K, 1)`, the repeat is REPEAT_COUNT
and `last_cmd` is `now`, the fallback unchanged; on any other channel IGNORED; a code above 47 is refused, on any
channel; its encoding. -/
def Obligations.CommandResult : Prop :=
  (∀ (ch : BitVec 8) (k : BitVec 6) (s : State) (m : Motor), k.toNat ≤ 47 →
    ch.toNat < s.cfg.n.toNat → s.motors[ch.toNat]? = some m →
    exec (.command ch k) s = .next { s with
      motors := s.motors.set ch.toNat
        { m with frame := encodeFrame (BitVec.ofNat 11 k.toNat) true, repeats := s.cfg.repeatCount },
      lastCmd := s.now,
      response := some ⟨.ok, 0⟩ }) ∧
  (∀ (ch : BitVec 8) (k : BitVec 6) (s : State), k.toNat ≤ 47 → s.cfg.n.toNat ≤ ch.toNat →
    exec (.command ch k) s = .next { s with response := some ⟨.ignored, 0⟩ }) ∧
  (∀ (ch : BitVec 8) (k : BitVec 6) (s : State), 47 < k.toNat → ∃ r, exec (.command ch k) s = .refused r) ∧
  (∀ (ch : BitVec 8) (k : BitVec 6),
    decode (BitVec.ofNat 64 (0x8 * 2 ^ 60 + ch.toNat * 2 ^ 52 + k.toNat)) =
      if k.toNat ≤ 47 then .instr (.command ch k) else .reserved .commandCode)

/-- THROTTLE and COMMAND on channel `c` change no Motor but `M[c]`, none of its counters, and (COMMAND) not its fallback;
they change no other register, port, slot or reading (43_command_api R107). -/
def Obligations.ThrottleCommandFrame : Prop :=
  ∀ (s t : State) (i : Instr) (c : Channel), (∃ v, i = .throttle c v) ∨ (∃ k, i = .command c k) →
    exec i s = .next t →
    (∀ j, j ≠ c.toNat → t.motors[j]? = s.motors[j]?) ∧
    (∀ m m', s.motors[c.toNat]? = some m → t.motors[c.toNat]? = some m' →
      m'.counters = m.counters ∧ ((∃ k, i = .command c k) → m'.fallback = m.fallback)) ∧
    t.motors.length = s.motors.length ∧
    t.cfg = s.cfg ∧ t.cur = s.cur ∧ t.phase = s.phase ∧ t.engEn = s.engEn ∧ t.engPin = s.engPin ∧ t.now = s.now ∧
    t.held = s.held ∧ t.engine = s.engine ∧ t.sink = s.sink ∧ t.inputs = s.inputs

/-- After THROTTLE(c, V) on a channel of the Controller, even amid a command's repeats, `M[c].frame` is `ENCODE(V, 0)`
and `M[c].repeat` is 0; and until a THROTTLE or COMMAND on `c` or a firing of the watchdog, every later service of `c`
sends `ENCODE(V, 0)` when it finds the transmit slot free, and nothing when it does not (43_command_api R106). -/
def Obligations.ThrottleCancelsRepeat : Prop :=
  ∀ (s t : State) (run : List State) (c : Channel) (v : BitVec 11),
    c.toNat < s.cfg.n.toNat → exec (.throttle c v) s = .next t →
    (∃ m, t.motors[c.toNat]? = some m ∧ m.frame = encodeFrame v false ∧ m.repeats = 0) ∧
    (IsRun t run → (∀ p ∈ stepsOf t run, noCommandOn c p.1 ∧ watchdogFiredIn p.1 p.2 = false) →
      (∀ p ∈ stepsOf t run, startsTick p.1 = true → p.2.cur = c →
        (pushedIn p.1 p.2).map TxEntry.frame = if engTxFree p.1 then [encodeFrame v false] else []) ∧
      ∀ x ∈ servicesOf c.toNat t run, x = none ∨ x = some (encodeFrame v false))

-- ==== the multiplexer (42_channel_mux R95 to R103) ====

/-- TICK_START (42_channel_mux R96): the served channel and its pin, the frame sent with its gap when the transmit slot
is free, the countdown and the revert, phase STARTED; refused in phase STARTED; its encoding. What counts down, the pin
and the phase are the spec's decisions D23, D3 and D10. -/
def Obligations.TickStartResult : Prop :=
  (∀ (s : State) (m : Motor), s.Wf → s.phase = .idle → s.motors[servedNext s]? = some m →
    (s.engine.txReport = true → s.engine.txSlot.length < s.cfg.engTxDepth →
      exec .tickStart s = .next { s with
        cur := BitVec.ofNat 8 (servedNext s),
        engPin := s.cfg.pinBase + BitVec.ofNat 8 (servedNext s),
        engine := { s.engine with txSlot := s.engine.txSlot ++ [⟨m.frame, s.cfg.gap[s.cfg.speed.toNat]'s.cfg.speed.isLt⟩] },
        motors := s.motors.set (servedNext s)
          (if m.repeats = 0 then m
           else if m.repeats = 1 then { m with repeats := 0, frame := m.fallback }
           else { m with repeats := m.repeats - 1 }),
        phase := .started,
        response := some ⟨.ok, BitVec.ofNat 32 (2 ^ 8 + servedNext s)⟩ }) ∧
    (s.engine.txReport = false ∨ s.cfg.engTxDepth ≤ s.engine.txSlot.length →
      exec .tickStart s = .next { s with
        cur := BitVec.ofNat 8 (servedNext s),
        engPin := s.cfg.pinBase + BitVec.ofNat 8 (servedNext s),
        phase := .started,
        response := some ⟨.ok, BitVec.ofNat 32 (servedNext s)⟩ })) ∧
  (∀ s : State, s.phase = .started → exec .tickStart s = .refused .wrongPhase) ∧
  decode 0x9000000000000000 = .instr .tickStart

/-- With one channel no tick writes `cur`, `eng_en` or `eng_pin` (42_channel_mux R100). -/
def Obligations.SingleChannelKeepsEngine : Prop :=
  ∀ (s t : State) (i : Instr), s.cfg.n.toNat = 1 → i = .tickStart ∨ i = .tickComplete ∨ i = .tick →
    exec i s = .next t → t.cur = s.cur ∧ t.engEn = s.engEn ∧ t.engPin = s.engPin

/-- TICK_COMPLETE (42_channel_mux R98): with no word, held and nothing else written; with a word, the reading emitted
when the result is OK, exactly the result's counter of `M[cur]` incremented modulo `2^CNT_WIDTH`, the watchdog, phase
IDLE, and the response; the step that completes a held TICK_COMPLETE has that whole effect (20_memory R51); refused in
phase IDLE; its encoding. The channel a word counts for, what `good` counts and the refusal are the spec's decisions D24,
D25 and D10, and that a held request completes in the very step that finds a word is log 2. -/
def Obligations.TickCompleteResult : Prop :=
  (∀ s : State, s.phase = .started → s.engine.rxSlot = [] →
    exec .tickComplete s = .next { s with held := some .complete }) ∧
  (∀ (s : State) (raw : RxWord) (rest : List RxWord) (m : Motor),
    s.phase = .started → s.engine.rxSlot = raw :: rest → s.motors[s.cur.toNat]? = some m →
    let r := tlmFn s.cfg raw
    let w := s.cfg.cntWidth
    let fired := s.cfg.idleTimeout.toNat < s.now - s.lastCmd
    let counted : Motor := { m with
      good := if r.res = .ok then (m.good + 1) % 2 ^ w else m.good,
      timeouts := if r.res = .timeout then (m.timeouts + 1) % 2 ^ w else m.timeouts,
      badGcr := if r.res = .badGcr then (m.badGcr + 1) % 2 ^ w else m.badGcr,
      badCrc := if r.res = .badCrc then (m.badCrc + 1) % 2 ^ w else m.badCrc,
      badType := if r.res = .unsupported ∨ r.res = .zeroErpm then (m.badType + 1) % 2 ^ w else m.badType }
    exec .tickComplete s = .next { s with
      engine := { s.engine with rxSlot := rest },
      sink := if r.res = .ok then s.sink ++ [⟨s.cur, r.kind, r.value⟩] else s.sink,
      motors := if fired then
          (s.motors.set s.cur.toNat counted).map
            (fun x => { x with frame := 0x000F, fallback := 0x000F, repeats := 0 })
        else s.motors.set s.cur.toNat counted,
      phase := .idle,
      held := none,
      response := some ⟨.ok, BitVec.ofNat 32
        ((if fired then 2 ^ 19 else 0) + (resCode r.res).toNat * 2 ^ 16 + s.cur.toNat)⟩ }) ∧
  (∀ s : State, s.held = some .complete → s.phase = .started → s.engine.rxSlot ≠ [] →
    step s = exec .tickComplete s) ∧
  (∀ s : State, s.phase = .idle → exec .tickComplete s = .refused .wrongPhase) ∧
  decode 0xA000000000000000 = .instr .tickComplete

/-- TICK (42_channel_mux R99): TICK_START, then TICK_COMPLETE in the state it leaves, with the two responses' data
combined; with no word, held with the start part's effects done, until TICK_COMPLETE's part completes; refused in phase STARTED; its encoding. The refusal is the spec's decision D10, and
that a held TICK completes in the very step that finds a word is log 2. -/
def Obligations.TickResult : Prop :=
  (∀ s : State, s.Wf → s.phase = .idle →
    ∃ s1 d1, exec .tickStart s = .next s1 ∧ s1.response = some ⟨.ok, d1⟩ ∧
      (s.engine.rxSlot = [] →
        exec .tick s = .next { s1 with response := s.response, held := some (.tick d1) }) ∧
      (s.engine.rxSlot ≠ [] →
        ∃ s2 d2, exec .tickComplete s1 = .next s2 ∧ s2.response = some ⟨.ok, d2⟩ ∧
          exec .tick s = .next { s2 with response := some ⟨.ok, BitVec.ofNat 32
            (d2.toNat / 2 ^ 16 % 2 ^ 4 * 2 ^ 16 + d1.toNat % 2 ^ 9)⟩ })) ∧
  (∀ (s : State) (d1 : RespData), s.Wf → s.held = some (.tick d1) → s.engine.rxSlot ≠ [] →
    ∃ s2 d2, exec .tickComplete s = .next s2 ∧ s2.response = some ⟨.ok, d2⟩ ∧
      step s = .next { s2 with response := some ⟨.ok, BitVec.ofNat 32
        (d2.toNat / 2 ^ 16 % 2 ^ 4 * 2 ^ 16 + d1.toNat % 2 ^ 9)⟩ }) ∧
  (∀ s : State, s.phase = .started → exec .tick s = .refused .wrongPhase) ∧
  decode 0xB000000000000000 = .instr .tick

/-- The phase discipline (42_channel_mux R95; the spec's decision D10): a start in phase STARTED and a completion in phase IDLE are refused; every
other well-formed operation is performed in either phase and does not change it. -/
def Obligations.PhaseDiscipline : Prop :=
  (∀ s : State, s.phase = .started →
    exec .tickStart s = .refused .wrongPhase ∧ exec .tick s = .refused .wrongPhase) ∧
  (∀ s : State, s.phase = .idle → exec .tickComplete s = .refused .wrongPhase) ∧
  (∀ (s : State) (i : Instr), s.Wf → i.wellFormed = true → i ≠ .tickStart → i ≠ .tickComplete → i ≠ .tick →
    ∃ t, exec i s = .next t ∧ t.phase = s.phase)

/-- A held request (70_reset_and_hazards R136): with a word in the receive slot the next step completes it; in a run in
which the engine never places a word it is held in every state, with nothing of the block written; and while one is held
no step takes, drops or reorders a request that waits (20_memory R53) or samples the time. That the very next step
completes it and that the waiting requests are passed over is log 2. -/
def Obligations.HeldRequestWaits : Prop :=
  (∀ (s : State) (h : Held), s.Wf → s.held = some h → s.engine.rxSlot ≠ [] →
    ∃ t, step s = .next t ∧ t.held = none ∧ t.phase = .idle ∧ t.response ≠ none ∧ t.inputs = s.inputs) ∧
  (∀ (s : State) (h : Held) (run : List State), s.held = some h → s.engine.rxSlot = [] →
    (∀ w, Input.engine (.place w) ∉ s.inputs) → IsRun s run →
    (∀ t ∈ run, t.held = some h ∧ t.engine.rxSlot = [] ∧ t.motors = s.motors ∧ t.cur = s.cur ∧
      t.lastCmd = s.lastCmd ∧ t.phase = s.phase ∧ t.engEn = s.engEn ∧ t.engPin = s.engPin ∧
      t.response = s.response ∧ t.sink = s.sink ∧ t.now = s.now ∧ requestsOf t.inputs = requestsOf s.inputs) ∧
    (∃ t, step (lastOf s run) = .next t)) ∧
  (∀ s t : State, s.held ≠ none → step s = .next t →
    t.now = s.now ∧ requestsOf t.inputs = requestsOf s.inputs)

/-- The service order (42_channel_mux R101): tick `k` (counted from 1) of a run serves channel `(cur + k) mod N`; from
the reset state that is `k mod N`; every channel is served once in every `N` consecutive ticks; with one channel every
tick serves channel 0. That `cur` is 0 at reset is the spec's decision D8. -/
def Obligations.ServiceOrder : Prop :=
  (∀ (s : State) (run : List State), s.Wf → IsRun s run →
    ∀ k x, (servedIn s run)[k]? = some x → x = (s.cur.toNat + (k + 1)) % s.cfg.n.toNat) ∧
  (∀ (cfg : Config) (eng : Engine) (now0 : Micros) (ins : List Input) (run : List State), cfg.Wf → eng.Wf cfg →
    IsRun { State.construct cfg eng now0 with inputs := ins } run →
    ∀ k x, (servedIn { State.construct cfg eng now0 with inputs := ins } run)[k]? = some x →
      x = (k + 1) % cfg.n.toNat) ∧
  (∀ (s : State) (run : List State), s.Wf → IsRun s run →
    ∀ k, k + s.cfg.n.toNat ≤ (servedIn s run).length → ∀ c, c < s.cfg.n.toNat →
      ∃! j, k ≤ j ∧ j < k + s.cfg.n.toNat ∧ (servedIn s run)[j]? = some c)

/-- The command repeat law (42_channel_mux R102): after COMMAND(c, k), with no THROTTLE or COMMAND on `c`, no firing of
the watchdog and a free transmit slot at each service of `c`, the next REPEAT_COUNT services of `c` send `ENCODE(k, 1)`
and the services after them send the fallback `c` held. That services are counted is the spec's decision D23. -/
def Obligations.CommandRepeat : Prop :=
  ∀ (s t : State) (run : List State) (c : Channel) (k : BitVec 6) (m : Motor),
    s.Wf → c.toNat < s.cfg.n.toNat → s.motors[c.toNat]? = some m → exec (.command c k) s = .next t →
    IsRun t run →
    (∀ p ∈ stepsOf t run, noCommandOn c p.1 ∧ watchdogFiredIn p.1 p.2 = false) →
    (∀ p ∈ stepsOf t run, startsTick p.1 = true → p.2.cur = c → engTxFree p.1 = true) →
    servicesOf c.toNat t run =
      (List.replicate s.cfg.repeatCount.toNat (some (encodeFrame (BitVec.ofNat 11 k.toNat) true)) ++
        List.replicate (servicesOf c.toNat t run).length (some m.fallback)).take (servicesOf c.toNat t run).length

/-- Repeats are delayed, never dropped (70_reset_and_hazards R140): a service with the transmit slot not free pushes
nothing and changes no Motor; and whatever services find it free, the frames sent on `c` after COMMAND(c, k) are
REPEAT_COUNT times `ENCODE(k, 1)`, then the fallback (the spec's decision D23). -/
def Obligations.RepeatsDelayedNotDropped : Prop :=
  (∀ s t : State, exec .tickStart s = .next t → engTxFree s = false →
    t.motors = s.motors ∧ t.engine = s.engine) ∧
  (∀ (s t : State) (run : List State) (c : Channel) (k : BitVec 6) (m : Motor),
    s.Wf → c.toNat < s.cfg.n.toNat → s.motors[c.toNat]? = some m → exec (.command c k) s = .next t →
    IsRun t run →
    (∀ p ∈ stepsOf t run, noCommandOn c p.1 ∧ watchdogFiredIn p.1 p.2 = false) →
    framesSentOn c.toNat t run =
      (List.replicate s.cfg.repeatCount.toNat (encodeFrame (BitVec.ofNat 11 k.toNat) true) ++
        List.replicate (framesSentOn c.toNat t run).length m.fallback).take (framesSentOn c.toNat t run).length)

/-- A tick writes only the served Motor, unless the watchdog fires, and no register but `cur`, `phase`, `eng_pin` and
`eng_en` (42_channel_mux R103); a step of a system is the step of the one Controller `k`, with that step's outcome, and
changes no other Controller (00_scope R3, 60_exceptions R126; that a system is a list of States is log 19). -/
def Obligations.TickTouchesServedMotor : Prop :=
  (∀ (s t : State) (i : Instr), i = .tickStart ∨ i = .tickComplete ∨ i = .tick → exec i s = .next t →
    (watchdogFiredIn s t = false → ∀ j, j ≠ t.cur.toNat → t.motors[j]? = s.motors[j]?) ∧
    t.cfg = s.cfg ∧ t.lastCmd = s.lastCmd ∧ t.now = s.now ∧ t.inputs = s.inputs ∧
    t.motors.length = s.motors.length ∧ t.engine.wire = s.engine.wire ∧ t.engine.txReport = s.engine.txReport) ∧
  (∀ (k : Nat) (sys : System) (s s1 : State), sys[k]? = some s → step s = .next s1 →
    systemStep k sys = some (.next (sys.set k s1))) ∧
  (∀ (k : Nat) (sys : System) (s : State) (r : Refusal), sys[k]? = some s → step s = .refused r →
    systemStep k sys = some (.refused r)) ∧
  (∀ (k : Nat) (sys : System) (s : State) (f : Fault), sys[k]? = some s → step s = .fault f →
    systemStep k sys = some (.fault f)) ∧
  (∀ (k : Nat) (sys sys' : System), systemStep k sys = some (.next sys') →
    ∀ j, j ≠ k → sys'[j]? = sys[j]?)

/-- Each receive word increments exactly one counter of the served Motor, by one modulo `2^CNT_WIDTH`, and no other;
the sink gains one reading exactly when it is `good` that counts (60_exceptions R115, 42_channel_mux R98). -/
def Obligations.EachWordCountedOnce : Prop :=
  ∀ (s t : State) (m : Motor), s.phase = .started → s.engine.rxSlot ≠ [] → s.motors[s.cur.toNat]? = some m →
    exec .tickComplete s = .next t →
    ∃ m' j, t.motors[s.cur.toNat]? = some m' ∧ j < 5 ∧
      (∀ i x, m.counters[i]? = some x →
        m'.counters[i]? = some (if i = j then (x + 1) % 2 ^ s.cfg.cntWidth else x)) ∧
      (j = 0 → ∃ r, t.sink = s.sink ++ [r] ∧ r.ch = s.cur) ∧ (j ≠ 0 → t.sink = s.sink)

-- ==== watchdog and statistics (44_watchdog_stats R108 to R111) ====

/-- The watchdog (44_watchdog_stats R108): a completion fires it exactly when `now - last_cmd > IDLE_TIMEOUT`, as the wd
bit says; it then leaves every channel neutral with no repeat, else every frame as it was; it does not write `last_cmd`.
That fallback and repeat are written too is the spec's decision D26. -/
def Obligations.WatchdogBoundary : Prop :=
  ∀ s t : State, s.phase = .started → s.engine.rxSlot ≠ [] → exec .tickComplete s = .next t →
    t.lastCmd = s.lastCmd ∧
    (∃ d, t.response = some ⟨.ok, d⟩ ∧
      (d.getLsbD 19 = true ↔ s.cfg.idleTimeout.toNat < s.now - s.lastCmd)) ∧
    (s.cfg.idleTimeout.toNat < s.now - s.lastCmd →
      t.motors.length = s.motors.length ∧
      ∀ m ∈ t.motors, m.frame = 0x000F ∧ m.fallback = 0x000F ∧ m.repeats = 0) ∧
    (s.now - s.lastCmd ≤ s.cfg.idleTimeout.toNat → ∀ (j : Nat) (m m' : Motor), s.motors[j]? = some m → t.motors[j]? = some m' →
      m'.frame = m.frame ∧ m'.fallback = m.fallback ∧ m'.repeats = m.repeats)

/-- The fail-safe law (44_watchdog_stats R109): a completion more than IDLE_TIMEOUT after `last_cmd` leaves every channel
neutral; and from then on every frame sent is NEUTRAL until a THROTTLE or COMMAND on a channel of the
Controller. -/
def Obligations.FailSafe : Prop :=
  ∀ (s t : State) (run : List State), s.Wf → step s = .next t → poppedIn s t = true →
    t.lastCmd + t.cfg.idleTimeout.toNat < t.now →
    (∀ m ∈ t.motors, m.frame = 0x000F) ∧
    (IsRun t run →
      (∀ p ∈ stepsOf t run, ∀ c : Channel, c.toNat < t.cfg.n.toNat → noCommandOn c p.1) →
      (∀ c, ∀ f ∈ framesSentOn c t run, f = 0x000F) ∧ ∀ m ∈ (lastOf t run).motors, m.frame = 0x000F)

/-- READ_STAT (44_watchdog_stats R110): the low 32 bits of the selected field, nothing changed; IGNORED out of range; its
encoding. The read interface is the spec's decisions D1 and D27. -/
def Obligations.ReadStatResult : Prop :=
  (∀ (ch : BitVec 8) (sel : StatSel) (s : State) (m : Motor),
    ch.toNat < s.cfg.n.toNat → s.motors[ch.toNat]? = some m →
    exec (.readStat ch sel) s = .next { s with response := some ⟨.ok, BitVec.ofNat 32
      (match sel with
        | .good => m.good
        | .badGcr => m.badGcr
        | .badCrc => m.badCrc
        | .badType => m.badType
        | .timeouts => m.timeouts
        | .frame => m.frame.toNat
        | .fallback => m.fallback.toNat
        | .repeats => m.repeats.toNat)⟩ }) ∧
  (∀ (ch : BitVec 8) (sel : StatSel) (s : State), s.cfg.n.toNat ≤ ch.toNat →
    exec (.readStat ch sel) s = .next { s with response := some ⟨.ignored, 0⟩ }) ∧
  (∀ (ch : BitVec 8) (k : Nat) (sel : StatSel),
    [StatSel.good, .badGcr, .badCrc, .badType, .timeouts, .frame, .fallback, .repeats][k]? = some sel →
    decode (BitVec.ofNat 64 (0xC * 2 ^ 60 + ch.toNat * 2 ^ 52 + k)) = .instr (.readStat ch sel))

/-- NOP (44_watchdog_stats R111; the spec's decision D1): status OK, data 0, nothing else changes; the all-zero word. -/
def Obligations.NopResult : Prop :=
  (∀ s : State, exec .nop s = .next { s with response := some ⟨.ok, 0⟩ }) ∧ decode 0 = .instr .nop

-- ==== the whole machine ====

/-- The operations 20_memory R52 calls idempotent write nothing but the response, and performed again they answer the
same state. -/
def Obligations.PureOperationsWriteNothing : Prop :=
  ∀ (i : Instr) (s : State), s.Wf →
    (∀ c v, i ≠ .throttle c v) → (∀ c k, i ≠ .command c k) → i ≠ .tickStart → i ≠ .tickComplete → i ≠ .tick →
    ∃ r, exec i s = .next { s with response := some r } ∧
      exec i { s with response := some r } = .next { s with response := some r }

/-- Who writes the Controller registers, in one step: nobody the configuration (10_state R21); `cur` and `eng_pin` only
a start phase of a Controller with more than one channel (R28, R31); `last_cmd` only THROTTLE or COMMAND on a channel of
the Controller, with `now` (R29); `phase` only a start, a completion (R30). -/
def Obligations.RegisterWriters : Prop :=
  ∀ s t : State, step s = .next t →
    t.cfg = s.cfg ∧
    (t.cur ≠ s.cur ∨ t.engPin ≠ s.engPin ∨ t.engEn ≠ s.engEn → startsTick s = true ∧ 1 < s.cfg.n.toNat) ∧
    (t.lastCmd ≠ s.lastCmd → t.lastCmd = t.now ∧
      ∃ c : Channel, c.toNat < s.cfg.n.toNat ∧ ¬ noCommandOn c s) ∧
    (t.phase ≠ s.phase →
      (t.phase = .started ∧ startsTick s = true) ∨ (t.phase = .idle ∧ poppedIn s t = true))

/-- Every step keeps the invariant `State.Wf` (10_state R22, R24, R25, R28, R31; 20_memory R54). -/
def Obligations.StepKeepsWf : Prop :=
  ∀ s t : State, s.Wf → step s = .next t → t.Wf

/-- A constructed Controller meets the invariant, and so does `State.reset`. -/
def Obligations.ConstructedIsWf : Prop :=
  (∀ (cfg : Config) (eng : Engine) (now0 : Micros), cfg.Wf → eng.Wf cfg → (State.construct cfg eng now0).Wf) ∧
  State.reset.Wf

/-- The reset state in full (70_reset_and_hazards R131; 10_state R39, R40): the Motor file, `cur`, `last_cmd`, `phase`,
`eng_en` and `eng_pin` at the values of the spec's decisions D7 to D10, the configuration and the engine at their
arguments; the model's own fields `now` at the construction time (log 6) and `inputs` empty (log 1). -/
def Obligations.ResetValues : Prop :=
  ∀ (cfg : Config) (eng : Engine) (now0 : Micros),
    let s := State.construct cfg eng now0
    s.motors.length = cfg.n.toNat ∧
    (∀ c < cfg.n.toNat, s.motors[c]? = some
      { frame := 0x000F, fallback := 0x000F, repeats := 0, good := 0, badGcr := 0, badCrc := 0, badType := 0,
        timeouts := 0 }) ∧
    s.cur = 0 ∧ s.lastCmd = now0 ∧ s.phase = .idle ∧ s.engEn = true ∧ s.engPin = cfg.pinBase ∧ s.cfg = cfg ∧
    s.engine = eng ∧ s.response = none ∧ s.held = none ∧ s.sink = [] ∧ s.now = now0 ∧ s.inputs = []

/-- Every frame and fallback has a valid CRC from reset onward: construction gives it and every step keeps it, in any
state (10_state R24). -/
def Obligations.FrameCrcKept : Prop :=
  (∀ (cfg : Config) (eng : Engine) (now0 : Micros), ∀ m ∈ (State.construct cfg eng now0).motors,
    frameCrc m.frame = crc4 (upper12 m.frame) ∧ frameCrc m.fallback = crc4 (upper12 m.fallback)) ∧
  (∀ s t : State, step s = .next t →
    (∀ m ∈ s.motors, frameCrc m.frame = crc4 (upper12 m.frame) ∧ frameCrc m.fallback = crc4 (upper12 m.fallback)) →
    ∀ m ∈ t.motors, frameCrc m.frame = crc4 (upper12 m.frame) ∧ frameCrc m.fallback = crc4 (upper12 m.fallback))

/-- A Motor that owes no repeat sends its fallback: construction gives it and every step keeps it, with REPEAT_COUNT at
least 1 (10_state R25). -/
def Obligations.NoRepeatMeansFallback : Prop :=
  (∀ (cfg : Config) (eng : Engine) (now0 : Micros), ∀ m ∈ (State.construct cfg eng now0).motors,
    m.repeats = 0 → m.frame = m.fallback) ∧
  (∀ s t : State, step s = .next t → 1 ≤ s.cfg.repeatCount.toNat →
    (∀ m ∈ s.motors, m.repeats = 0 → m.frame = m.fallback) →
    ∀ m ∈ t.motors, m.repeats = 0 → m.frame = m.fallback)

/-- The block raises no exception (60_exceptions R112): no step faults in a state that meets the invariant. -/
def Obligations.NoStepFaults : Prop :=
  ∀ (s : State) (f : Fault), s.Wf → step s ≠ .fault f

/-- In a state that meets the invariant, a request that is not reserved, not a tick in the wrong phase and not before
the last sampled time is performed; every turn that is not a request's answers a next state (00_scope R15, 60 R119). -/
def Obligations.EveryOtherRequestPerformed : Prop :=
  (∀ (s : State) (w : ReqWord) (t : Micros) (rest : List Input), s.Wf → s.held = none →
    s.inputs = .request w t :: rest → s.now ≤ t → ¬ IsReservedWord w →
    (w.toNat / 2 ^ 60 = 9 ∨ w.toNat / 2 ^ 60 = 11 → s.phase = .idle) →
    (w.toNat / 2 ^ 60 = 10 → s.phase = .started) →
    ∃ u, step s = .next u) ∧
  (∀ s : State, s.Wf → (s.held ≠ none ∨ ∀ w t rest, s.inputs ≠ .request w t :: rest) → ∃ u, step s = .next u)

/-- The engine's slots are first-in, first-out (20_memory R54): in one step what is on the wire and in the transmit slot,
in order, gains at most one frame at its end; the receive slot keeps its words, gains one at its end, or loses its
oldest to the block. That a word placed into a full receive slot is lost, and changes nothing, is the model's choice:
log 5. -/
def Obligations.EngineSlotsFifo : Prop :=
  ∀ s t : State, step s = .next t →
    (∃ new : List TxEntry, new.length ≤ 1 ∧
      t.engine.wire.map (fun e => TxEntry.mk e.frame e.gap) ++ t.engine.txSlot =
        s.engine.wire.map (fun e => TxEntry.mk e.frame e.gap) ++ s.engine.txSlot ++ new) ∧
    (t.engine.rxSlot = s.engine.rxSlot ∨ (∃ w, t.engine.rxSlot = s.engine.rxSlot ++ [w]) ∨
      (∃ w, s.engine.rxSlot = w :: t.engine.rxSlot))

/-- The engine emits the oldest frame of its slot on `eng_pin` at `eng_speed` while it is enabled, and changes nothing
else (60_exceptions R122; the moment of emission is log 14); with nothing to send, or disabled, nothing happens (log 3). -/
def Obligations.EngineTransmits : Prop :=
  (∀ (s : State) (e : TxEntry) (tx : List TxEntry) (rest : List Input),
    s.held = none → s.inputs = .engine .transmit :: rest → s.engEn = true → s.engine.txSlot = e :: tx →
    step s = .next { s with
      inputs := rest,
      engine := { s.engine with txSlot := tx, wire := s.engine.wire ++ [⟨s.engPin, s.cfg.speed, e.frame, e.gap⟩] } }) ∧
  (∀ (s : State) (rest : List Input), s.held = none → s.inputs = .engine .transmit :: rest →
    s.engEn = false ∨ s.engine.txSlot = [] → step s = .next { s with inputs := rest })

/-- Construction is refused when REPEAT_COUNT is 0, N is 0 or GCR_TABLE is not injective, and with parameters in range
it answers the reset state (00_scope R9). -/
def Obligations.ConstructionRefused : Prop :=
  (∀ (cfg : Config) (eng : Engine) (now0 : Micros),
    cfg.repeatCount = 0 ∨ cfg.n = 0 ∨ (∃ a b : Nibble, a ≠ b ∧ gcrSymbolOf cfg a = gcrSymbolOf cfg b) →
    newController cfg eng now0 = .refused .badParameters) ∧
  (∀ (cfg : Config) (eng : Engine) (now0 : Micros), cfg.Wf →
    newController cfg eng now0 = .next (State.construct cfg eng now0))

/-- The model's choice (log 11, from the duty of 60_exceptions R120): a request whose time is before the last sampled
one is refused. -/
def Obligations.BackwardTimeRefused : Prop :=
  ∀ (s : State) (w : ReqWord) (t : Micros) (rest : List Input),
    s.held = none → s.inputs = .request w t :: rest → t < s.now → step s = .refused .timeBackwards

/-- An ignored request changes no state: its answer is (IGNORED, 0) and the operation is THROTTLE, COMMAND or READ_STAT
on a channel the Controller does not have (00_scope R15(b), 10_state R23). -/
def Obligations.IgnoredChangesNothing : Prop :=
  ∀ (s t : State) (i : Instr) (d : RespData), s.response = none → exec i s = .next t →
    t.response = some ⟨.ignored, d⟩ →
    t = { s with response := some ⟨.ignored, 0⟩ } ∧
    ∃ c : Channel, s.cfg.n.toNat ≤ c.toNat ∧
      ((∃ v, i = .throttle c v) ∨ (∃ k, i = .command c k) ∨ (∃ sel, i = .readStat c sel))

/-- Only THROTTLE, COMMAND, TICK_COMPLETE and TICK read the time (10_state R35): any other operation does the same in a
state that differs only in `now`. -/
def Obligations.TimeReadersOnly : Prop :=
  ∀ (s t : State) (i : Instr) (n : Micros),
    (∀ c v, i ≠ .throttle c v) → (∀ c k, i ≠ .command c k) → i ≠ .tickComplete → i ≠ .tick →
    exec i s = .next t → exec i { s with now := n } = .next { t with now := n }

/-- Each request has one response (10_state R34, R36): when a step performs a request, either it is held and the port is
empty, or it is not and the port holds its answer. -/
def Obligations.OneResponsePerRequest : Prop :=
  ∀ (s t : State) (i : Instr), accepted s = some i → step s = .next t →
    (t.held ≠ none ∧ t.response = none ∧ (i = .tickComplete ∨ i = .tick) ∧ t.engine.rxSlot = []) ∨
    (t.held = none ∧ t.response ≠ none)

-- ==== the engine's other moves, and the turns in which nothing is performed ====

/-- The engine places any 32-bit word at the end of its receive slot, and changes nothing else (60_exceptions R122, R124);
the word is lost when the slot is full (the model's choice, log 5). -/
def Obligations.EnginePlaces : Prop :=
  ∀ (s : State) (w : RxWord) (rest : List Input), s.held = none → s.inputs = .engine (.place w) :: rest →
    (s.engine.rxSlot.length < s.cfg.engRxDepth →
      step s = .next { s with inputs := rest, engine := { s.engine with rxSlot := s.engine.rxSlot ++ [w] } }) ∧
    (s.cfg.engRxDepth ≤ s.engine.rxSlot.length → step s = .next { s with inputs := rest })

/-- The engine changes its report of room, and nothing else (60_exceptions R122, R123); the next TICK_START sees room
exactly when the engine reports it and its slot has it (log 4). -/
def Obligations.EngineReports : Prop :=
  ∀ (s : State) (b : Bool) (rest : List Input), s.held = none → s.inputs = .engine (.report b) :: rest →
    ∃ t, step s = .next t ∧ t = { s with inputs := rest, engine := { s.engine with txReport := b } } ∧
      (engTxFree t = true ↔ b = true ∧ s.engine.txSlot.length < s.cfg.engTxDepth)

/-- While a request is held with no word ready, the first engine move of the inputs has the effect it has with nothing
held, the requests before it are passed over and wait in their places, and the request stays held (60_exceptions R122,
70_reset_and_hazards R136; log 2). -/
def Obligations.EngineMovesWhileHeld : Prop :=
  ∀ (s : State) (h : Held) (m : EngineMove) (waiting rest : List Input),
    s.held = some h → s.engine.rxSlot = [] → requestsOf waiting = waiting → s.inputs = waiting ++ .engine m :: rest →
    ∃ u, step { s with held := none, inputs := .engine m :: (waiting ++ rest) } = .next u ∧
      step s = .next { u with held := some h } ∧ u.inputs = waiting ++ rest

/-- With no input nothing happens: nothing held and the inputs empty, or a request held, no word ready and no engine move
to come (20_memory R53, 70_reset_and_hazards R136; log 1, log 2). -/
def Obligations.NothingHappensWithoutInput : Prop :=
  (∀ s : State, s.held = none → s.inputs = [] → step s = .next s) ∧
  (∀ s : State, s.held ≠ none → s.engine.rxSlot = [] → requestsOf s.inputs = s.inputs → step s = .next s)
end

