-- ==== Sys2Proof/Laws/State.lean ====
section
/-! SUPPORT. One lemma per field of `State` per named update, so that no proof unfolds a record update: first the plain
updates of `Machine/Ops.lean` and `Machine/Agents.lean`, then the fields the composite ones leave alone. -/

namespace Sys2Proof.Machine

variable (s : State)

@[simp] theorem respond_cfg (st : Status) (d : RespData) : (respond st d s).cfg = s.cfg := rfl
@[simp] theorem respond_motors (st : Status) (d : RespData) : (respond st d s).motors = s.motors := rfl
@[simp] theorem respond_cur (st : Status) (d : RespData) : (respond st d s).cur = s.cur := rfl
@[simp] theorem respond_lastCmd (st : Status) (d : RespData) : (respond st d s).lastCmd = s.lastCmd := rfl
@[simp] theorem respond_phase (st : Status) (d : RespData) : (respond st d s).phase = s.phase := rfl
@[simp] theorem respond_engEn (st : Status) (d : RespData) : (respond st d s).engEn = s.engEn := rfl
@[simp] theorem respond_engPin (st : Status) (d : RespData) : (respond st d s).engPin = s.engPin := rfl
@[simp] theorem respond_now (st : Status) (d : RespData) : (respond st d s).now = s.now := rfl
@[simp] theorem respond_response (st : Status) (d : RespData) : (respond st d s).response = some ⟨st, d⟩ := rfl
@[simp] theorem respond_held (st : Status) (d : RespData) : (respond st d s).held = s.held := rfl
@[simp] theorem respond_engine (st : Status) (d : RespData) : (respond st d s).engine = s.engine := rfl
@[simp] theorem respond_sink (st : Status) (d : RespData) : (respond st d s).sink = s.sink := rfl
@[simp] theorem respond_inputs (st : Status) (d : RespData) : (respond st d s).inputs = s.inputs := rfl

@[simp] theorem touchLastCmd_cfg : (touchLastCmd s).cfg = s.cfg := rfl
@[simp] theorem touchLastCmd_motors : (touchLastCmd s).motors = s.motors := rfl
@[simp] theorem touchLastCmd_cur : (touchLastCmd s).cur = s.cur := rfl
@[simp] theorem touchLastCmd_lastCmd : (touchLastCmd s).lastCmd = s.now := rfl
@[simp] theorem touchLastCmd_phase : (touchLastCmd s).phase = s.phase := rfl
@[simp] theorem touchLastCmd_engEn : (touchLastCmd s).engEn = s.engEn := rfl
@[simp] theorem touchLastCmd_engPin : (touchLastCmd s).engPin = s.engPin := rfl
@[simp] theorem touchLastCmd_now : (touchLastCmd s).now = s.now := rfl
@[simp] theorem touchLastCmd_response : (touchLastCmd s).response = s.response := rfl
@[simp] theorem touchLastCmd_held : (touchLastCmd s).held = s.held := rfl
@[simp] theorem touchLastCmd_engine : (touchLastCmd s).engine = s.engine := rfl
@[simp] theorem touchLastCmd_sink : (touchLastCmd s).sink = s.sink := rfl
@[simp] theorem touchLastCmd_inputs : (touchLastCmd s).inputs = s.inputs := rfl

@[simp] theorem setPhase_cfg (p : Phase) : (setPhase p s).cfg = s.cfg := rfl
@[simp] theorem setPhase_motors (p : Phase) : (setPhase p s).motors = s.motors := rfl
@[simp] theorem setPhase_cur (p : Phase) : (setPhase p s).cur = s.cur := rfl
@[simp] theorem setPhase_lastCmd (p : Phase) : (setPhase p s).lastCmd = s.lastCmd := rfl
@[simp] theorem setPhase_phase (p : Phase) : (setPhase p s).phase = p := rfl
@[simp] theorem setPhase_engEn (p : Phase) : (setPhase p s).engEn = s.engEn := rfl
@[simp] theorem setPhase_engPin (p : Phase) : (setPhase p s).engPin = s.engPin := rfl
@[simp] theorem setPhase_now (p : Phase) : (setPhase p s).now = s.now := rfl
@[simp] theorem setPhase_response (p : Phase) : (setPhase p s).response = s.response := rfl
@[simp] theorem setPhase_held (p : Phase) : (setPhase p s).held = s.held := rfl
@[simp] theorem setPhase_engine (p : Phase) : (setPhase p s).engine = s.engine := rfl
@[simp] theorem setPhase_sink (p : Phase) : (setPhase p s).sink = s.sink := rfl
@[simp] theorem setPhase_inputs (p : Phase) : (setPhase p s).inputs = s.inputs := rfl

@[simp] theorem setHeld_cfg (h : Option Held) : (setHeld h s).cfg = s.cfg := rfl
@[simp] theorem setHeld_motors (h : Option Held) : (setHeld h s).motors = s.motors := rfl
@[simp] theorem setHeld_cur (h : Option Held) : (setHeld h s).cur = s.cur := rfl
@[simp] theorem setHeld_lastCmd (h : Option Held) : (setHeld h s).lastCmd = s.lastCmd := rfl
@[simp] theorem setHeld_phase (h : Option Held) : (setHeld h s).phase = s.phase := rfl
@[simp] theorem setHeld_engEn (h : Option Held) : (setHeld h s).engEn = s.engEn := rfl
@[simp] theorem setHeld_engPin (h : Option Held) : (setHeld h s).engPin = s.engPin := rfl
@[simp] theorem setHeld_now (h : Option Held) : (setHeld h s).now = s.now := rfl
@[simp] theorem setHeld_response (h : Option Held) : (setHeld h s).response = s.response := rfl
@[simp] theorem setHeld_held (h : Option Held) : (setHeld h s).held = h := rfl
@[simp] theorem setHeld_engine (h : Option Held) : (setHeld h s).engine = s.engine := rfl
@[simp] theorem setHeld_sink (h : Option Held) : (setHeld h s).sink = s.sink := rfl
@[simp] theorem setHeld_inputs (h : Option Held) : (setHeld h s).inputs = s.inputs := rfl

@[simp] theorem setEngEn_cfg (b : Bool) : (setEngEn b s).cfg = s.cfg := rfl
@[simp] theorem setEngEn_motors (b : Bool) : (setEngEn b s).motors = s.motors := rfl
@[simp] theorem setEngEn_cur (b : Bool) : (setEngEn b s).cur = s.cur := rfl
@[simp] theorem setEngEn_lastCmd (b : Bool) : (setEngEn b s).lastCmd = s.lastCmd := rfl
@[simp] theorem setEngEn_phase (b : Bool) : (setEngEn b s).phase = s.phase := rfl
@[simp] theorem setEngEn_engEn (b : Bool) : (setEngEn b s).engEn = b := rfl
@[simp] theorem setEngEn_engPin (b : Bool) : (setEngEn b s).engPin = s.engPin := rfl
@[simp] theorem setEngEn_now (b : Bool) : (setEngEn b s).now = s.now := rfl
@[simp] theorem setEngEn_response (b : Bool) : (setEngEn b s).response = s.response := rfl
@[simp] theorem setEngEn_held (b : Bool) : (setEngEn b s).held = s.held := rfl
@[simp] theorem setEngEn_engine (b : Bool) : (setEngEn b s).engine = s.engine := rfl
@[simp] theorem setEngEn_sink (b : Bool) : (setEngEn b s).sink = s.sink := rfl
@[simp] theorem setEngEn_inputs (b : Bool) : (setEngEn b s).inputs = s.inputs := rfl

@[simp] theorem setCur_cfg (c : Channel) : (setCur c s).cfg = s.cfg := rfl
@[simp] theorem setCur_motors (c : Channel) : (setCur c s).motors = s.motors := rfl
@[simp] theorem setCur_cur (c : Channel) : (setCur c s).cur = c := rfl
@[simp] theorem setCur_lastCmd (c : Channel) : (setCur c s).lastCmd = s.lastCmd := rfl
@[simp] theorem setCur_phase (c : Channel) : (setCur c s).phase = s.phase := rfl
@[simp] theorem setCur_engEn (c : Channel) : (setCur c s).engEn = s.engEn := rfl
@[simp] theorem setCur_engPin (c : Channel) : (setCur c s).engPin = s.engPin := rfl
@[simp] theorem setCur_now (c : Channel) : (setCur c s).now = s.now := rfl
@[simp] theorem setCur_response (c : Channel) : (setCur c s).response = s.response := rfl
@[simp] theorem setCur_held (c : Channel) : (setCur c s).held = s.held := rfl
@[simp] theorem setCur_engine (c : Channel) : (setCur c s).engine = s.engine := rfl
@[simp] theorem setCur_sink (c : Channel) : (setCur c s).sink = s.sink := rfl
@[simp] theorem setCur_inputs (c : Channel) : (setCur c s).inputs = s.inputs := rfl

@[simp] theorem setEngPin_cfg (p : Pin) : (setEngPin p s).cfg = s.cfg := rfl
@[simp] theorem setEngPin_motors (p : Pin) : (setEngPin p s).motors = s.motors := rfl
@[simp] theorem setEngPin_cur (p : Pin) : (setEngPin p s).cur = s.cur := rfl
@[simp] theorem setEngPin_lastCmd (p : Pin) : (setEngPin p s).lastCmd = s.lastCmd := rfl
@[simp] theorem setEngPin_phase (p : Pin) : (setEngPin p s).phase = s.phase := rfl
@[simp] theorem setEngPin_engEn (p : Pin) : (setEngPin p s).engEn = s.engEn := rfl
@[simp] theorem setEngPin_engPin (p : Pin) : (setEngPin p s).engPin = p := rfl
@[simp] theorem setEngPin_now (p : Pin) : (setEngPin p s).now = s.now := rfl
@[simp] theorem setEngPin_response (p : Pin) : (setEngPin p s).response = s.response := rfl
@[simp] theorem setEngPin_held (p : Pin) : (setEngPin p s).held = s.held := rfl
@[simp] theorem setEngPin_engine (p : Pin) : (setEngPin p s).engine = s.engine := rfl
@[simp] theorem setEngPin_sink (p : Pin) : (setEngPin p s).sink = s.sink := rfl
@[simp] theorem setEngPin_inputs (p : Pin) : (setEngPin p s).inputs = s.inputs := rfl

@[simp] theorem setMotor_cfg (c : Channel) (m : Motor) : (setMotor c m s).cfg = s.cfg := rfl
@[simp] theorem setMotor_motors (c : Channel) (m : Motor) : (setMotor c m s).motors = s.motors.set c.toNat m := rfl
@[simp] theorem setMotor_cur (c : Channel) (m : Motor) : (setMotor c m s).cur = s.cur := rfl
@[simp] theorem setMotor_lastCmd (c : Channel) (m : Motor) : (setMotor c m s).lastCmd = s.lastCmd := rfl
@[simp] theorem setMotor_phase (c : Channel) (m : Motor) : (setMotor c m s).phase = s.phase := rfl
@[simp] theorem setMotor_engEn (c : Channel) (m : Motor) : (setMotor c m s).engEn = s.engEn := rfl
@[simp] theorem setMotor_engPin (c : Channel) (m : Motor) : (setMotor c m s).engPin = s.engPin := rfl
@[simp] theorem setMotor_now (c : Channel) (m : Motor) : (setMotor c m s).now = s.now := rfl
@[simp] theorem setMotor_response (c : Channel) (m : Motor) : (setMotor c m s).response = s.response := rfl
@[simp] theorem setMotor_held (c : Channel) (m : Motor) : (setMotor c m s).held = s.held := rfl
@[simp] theorem setMotor_engine (c : Channel) (m : Motor) : (setMotor c m s).engine = s.engine := rfl
@[simp] theorem setMotor_sink (c : Channel) (m : Motor) : (setMotor c m s).sink = s.sink := rfl
@[simp] theorem setMotor_inputs (c : Channel) (m : Motor) : (setMotor c m s).inputs = s.inputs := rfl

@[simp] theorem engPush_cfg (f : Frame) (gap : Nat) : (engPush f gap s).cfg = s.cfg := rfl
@[simp] theorem engPush_motors (f : Frame) (gap : Nat) : (engPush f gap s).motors = s.motors := rfl
@[simp] theorem engPush_cur (f : Frame) (gap : Nat) : (engPush f gap s).cur = s.cur := rfl
@[simp] theorem engPush_lastCmd (f : Frame) (gap : Nat) : (engPush f gap s).lastCmd = s.lastCmd := rfl
@[simp] theorem engPush_phase (f : Frame) (gap : Nat) : (engPush f gap s).phase = s.phase := rfl
@[simp] theorem engPush_engEn (f : Frame) (gap : Nat) : (engPush f gap s).engEn = s.engEn := rfl
@[simp] theorem engPush_engPin (f : Frame) (gap : Nat) : (engPush f gap s).engPin = s.engPin := rfl
@[simp] theorem engPush_now (f : Frame) (gap : Nat) : (engPush f gap s).now = s.now := rfl
@[simp] theorem engPush_response (f : Frame) (gap : Nat) : (engPush f gap s).response = s.response := rfl
@[simp] theorem engPush_held (f : Frame) (gap : Nat) : (engPush f gap s).held = s.held := rfl
@[simp] theorem engPush_engine (f : Frame) (gap : Nat) : (engPush f gap s).engine = { s.engine with txSlot := s.engine.txSlot ++ [⟨f, gap⟩] } := rfl
@[simp] theorem engPush_sink (f : Frame) (gap : Nat) : (engPush f gap s).sink = s.sink := rfl
@[simp] theorem engPush_inputs (f : Frame) (gap : Nat) : (engPush f gap s).inputs = s.inputs := rfl

@[simp] theorem setRxSlot_cfg (ws : List RxWord) : (setRxSlot ws s).cfg = s.cfg := rfl
@[simp] theorem setRxSlot_motors (ws : List RxWord) : (setRxSlot ws s).motors = s.motors := rfl
@[simp] theorem setRxSlot_cur (ws : List RxWord) : (setRxSlot ws s).cur = s.cur := rfl
@[simp] theorem setRxSlot_lastCmd (ws : List RxWord) : (setRxSlot ws s).lastCmd = s.lastCmd := rfl
@[simp] theorem setRxSlot_phase (ws : List RxWord) : (setRxSlot ws s).phase = s.phase := rfl
@[simp] theorem setRxSlot_engEn (ws : List RxWord) : (setRxSlot ws s).engEn = s.engEn := rfl
@[simp] theorem setRxSlot_engPin (ws : List RxWord) : (setRxSlot ws s).engPin = s.engPin := rfl
@[simp] theorem setRxSlot_now (ws : List RxWord) : (setRxSlot ws s).now = s.now := rfl
@[simp] theorem setRxSlot_response (ws : List RxWord) : (setRxSlot ws s).response = s.response := rfl
@[simp] theorem setRxSlot_held (ws : List RxWord) : (setRxSlot ws s).held = s.held := rfl
@[simp] theorem setRxSlot_engine (ws : List RxWord) : (setRxSlot ws s).engine = { s.engine with rxSlot := ws } := rfl
@[simp] theorem setRxSlot_sink (ws : List RxWord) : (setRxSlot ws s).sink = s.sink := rfl
@[simp] theorem setRxSlot_inputs (ws : List RxWord) : (setRxSlot ws s).inputs = s.inputs := rfl

@[simp] theorem emitTelemetry_cfg (ch : Channel) (k : ReadingType) (v : BitVec 32) : (emitTelemetry ch k v s).cfg = s.cfg := rfl
@[simp] theorem emitTelemetry_motors (ch : Channel) (k : ReadingType) (v : BitVec 32) : (emitTelemetry ch k v s).motors = s.motors := rfl
@[simp] theorem emitTelemetry_cur (ch : Channel) (k : ReadingType) (v : BitVec 32) : (emitTelemetry ch k v s).cur = s.cur := rfl
@[simp] theorem emitTelemetry_lastCmd (ch : Channel) (k : ReadingType) (v : BitVec 32) : (emitTelemetry ch k v s).lastCmd = s.lastCmd := rfl
@[simp] theorem emitTelemetry_phase (ch : Channel) (k : ReadingType) (v : BitVec 32) : (emitTelemetry ch k v s).phase = s.phase := rfl
@[simp] theorem emitTelemetry_engEn (ch : Channel) (k : ReadingType) (v : BitVec 32) : (emitTelemetry ch k v s).engEn = s.engEn := rfl
@[simp] theorem emitTelemetry_engPin (ch : Channel) (k : ReadingType) (v : BitVec 32) : (emitTelemetry ch k v s).engPin = s.engPin := rfl
@[simp] theorem emitTelemetry_now (ch : Channel) (k : ReadingType) (v : BitVec 32) : (emitTelemetry ch k v s).now = s.now := rfl
@[simp] theorem emitTelemetry_response (ch : Channel) (k : ReadingType) (v : BitVec 32) : (emitTelemetry ch k v s).response = s.response := rfl
@[simp] theorem emitTelemetry_held (ch : Channel) (k : ReadingType) (v : BitVec 32) : (emitTelemetry ch k v s).held = s.held := rfl
@[simp] theorem emitTelemetry_engine (ch : Channel) (k : ReadingType) (v : BitVec 32) : (emitTelemetry ch k v s).engine = s.engine := rfl
@[simp] theorem emitTelemetry_sink (ch : Channel) (k : ReadingType) (v : BitVec 32) : (emitTelemetry ch k v s).sink = s.sink ++ [⟨ch, k, v⟩] := rfl
@[simp] theorem emitTelemetry_inputs (ch : Channel) (k : ReadingType) (v : BitVec 32) : (emitTelemetry ch k v s).inputs = s.inputs := rfl

@[simp] theorem forceNeutral_cfg : (forceNeutral s).cfg = s.cfg := rfl
@[simp] theorem forceNeutral_motors : (forceNeutral s).motors = s.motors.map Motor.forced := rfl
@[simp] theorem forceNeutral_cur : (forceNeutral s).cur = s.cur := rfl
@[simp] theorem forceNeutral_lastCmd : (forceNeutral s).lastCmd = s.lastCmd := rfl
@[simp] theorem forceNeutral_phase : (forceNeutral s).phase = s.phase := rfl
@[simp] theorem forceNeutral_engEn : (forceNeutral s).engEn = s.engEn := rfl
@[simp] theorem forceNeutral_engPin : (forceNeutral s).engPin = s.engPin := rfl
@[simp] theorem forceNeutral_now : (forceNeutral s).now = s.now := rfl
@[simp] theorem forceNeutral_response : (forceNeutral s).response = s.response := rfl
@[simp] theorem forceNeutral_held : (forceNeutral s).held = s.held := rfl
@[simp] theorem forceNeutral_engine : (forceNeutral s).engine = s.engine := rfl
@[simp] theorem forceNeutral_sink : (forceNeutral s).sink = s.sink := rfl
@[simp] theorem forceNeutral_inputs : (forceNeutral s).inputs = s.inputs := rfl

@[simp] theorem setInputs_cfg (xs : List Input) : (setInputs xs s).cfg = s.cfg := rfl
@[simp] theorem setInputs_motors (xs : List Input) : (setInputs xs s).motors = s.motors := rfl
@[simp] theorem setInputs_cur (xs : List Input) : (setInputs xs s).cur = s.cur := rfl
@[simp] theorem setInputs_lastCmd (xs : List Input) : (setInputs xs s).lastCmd = s.lastCmd := rfl
@[simp] theorem setInputs_phase (xs : List Input) : (setInputs xs s).phase = s.phase := rfl
@[simp] theorem setInputs_engEn (xs : List Input) : (setInputs xs s).engEn = s.engEn := rfl
@[simp] theorem setInputs_engPin (xs : List Input) : (setInputs xs s).engPin = s.engPin := rfl
@[simp] theorem setInputs_now (xs : List Input) : (setInputs xs s).now = s.now := rfl
@[simp] theorem setInputs_response (xs : List Input) : (setInputs xs s).response = s.response := rfl
@[simp] theorem setInputs_held (xs : List Input) : (setInputs xs s).held = s.held := rfl
@[simp] theorem setInputs_engine (xs : List Input) : (setInputs xs s).engine = s.engine := rfl
@[simp] theorem setInputs_sink (xs : List Input) : (setInputs xs s).sink = s.sink := rfl
@[simp] theorem setInputs_inputs (xs : List Input) : (setInputs xs s).inputs = xs := rfl

@[simp] theorem sample_cfg (t : Micros) : (sample t s).cfg = s.cfg := rfl
@[simp] theorem sample_motors (t : Micros) : (sample t s).motors = s.motors := rfl
@[simp] theorem sample_cur (t : Micros) : (sample t s).cur = s.cur := rfl
@[simp] theorem sample_lastCmd (t : Micros) : (sample t s).lastCmd = s.lastCmd := rfl
@[simp] theorem sample_phase (t : Micros) : (sample t s).phase = s.phase := rfl
@[simp] theorem sample_engEn (t : Micros) : (sample t s).engEn = s.engEn := rfl
@[simp] theorem sample_engPin (t : Micros) : (sample t s).engPin = s.engPin := rfl
@[simp] theorem sample_now (t : Micros) : (sample t s).now = t := rfl
@[simp] theorem sample_response (t : Micros) : (sample t s).response = none := rfl
@[simp] theorem sample_held (t : Micros) : (sample t s).held = s.held := rfl
@[simp] theorem sample_engine (t : Micros) : (sample t s).engine = s.engine := rfl
@[simp] theorem sample_sink (t : Micros) : (sample t s).sink = s.sink := rfl
@[simp] theorem sample_inputs (t : Micros) : (sample t s).inputs = s.inputs := rfl

@[simp] theorem engineReport_cfg (b : Bool) : (engineReport b s).cfg = s.cfg := rfl
@[simp] theorem engineReport_motors (b : Bool) : (engineReport b s).motors = s.motors := rfl
@[simp] theorem engineReport_cur (b : Bool) : (engineReport b s).cur = s.cur := rfl
@[simp] theorem engineReport_lastCmd (b : Bool) : (engineReport b s).lastCmd = s.lastCmd := rfl
@[simp] theorem engineReport_phase (b : Bool) : (engineReport b s).phase = s.phase := rfl
@[simp] theorem engineReport_engEn (b : Bool) : (engineReport b s).engEn = s.engEn := rfl
@[simp] theorem engineReport_engPin (b : Bool) : (engineReport b s).engPin = s.engPin := rfl
@[simp] theorem engineReport_now (b : Bool) : (engineReport b s).now = s.now := rfl
@[simp] theorem engineReport_response (b : Bool) : (engineReport b s).response = s.response := rfl
@[simp] theorem engineReport_held (b : Bool) : (engineReport b s).held = s.held := rfl
@[simp] theorem engineReport_engine (b : Bool) : (engineReport b s).engine = { s.engine with txReport := b } := rfl
@[simp] theorem engineReport_sink (b : Bool) : (engineReport b s).sink = s.sink := rfl
@[simp] theorem engineReport_inputs (b : Bool) : (engineReport b s).inputs = s.inputs := rfl

@[simp] theorem selectNext_cfg : (selectNext s).cfg = s.cfg := by
  unfold selectNext; split <;> rfl
@[simp] theorem selectNext_motors : (selectNext s).motors = s.motors := by
  unfold selectNext; split <;> rfl
@[simp] theorem selectNext_lastCmd : (selectNext s).lastCmd = s.lastCmd := by
  unfold selectNext; split <;> rfl
@[simp] theorem selectNext_phase : (selectNext s).phase = s.phase := by
  unfold selectNext; split <;> rfl
@[simp] theorem selectNext_now : (selectNext s).now = s.now := by
  unfold selectNext; split <;> rfl
@[simp] theorem selectNext_response : (selectNext s).response = s.response := by
  unfold selectNext; split <;> rfl
@[simp] theorem selectNext_held : (selectNext s).held = s.held := by
  unfold selectNext; split <;> rfl
@[simp] theorem selectNext_engine : (selectNext s).engine = s.engine := by
  unfold selectNext; split <;> rfl
@[simp] theorem selectNext_sink : (selectNext s).sink = s.sink := by
  unfold selectNext; split <;> rfl
@[simp] theorem selectNext_inputs : (selectNext s).inputs = s.inputs := by
  unfold selectNext; split <;> rfl

@[simp] theorem sendFrame_cfg (m : Motor) : (sendFrame m s).cfg = s.cfg := rfl
@[simp] theorem sendFrame_cur (m : Motor) : (sendFrame m s).cur = s.cur := rfl
@[simp] theorem sendFrame_lastCmd (m : Motor) : (sendFrame m s).lastCmd = s.lastCmd := rfl
@[simp] theorem sendFrame_phase (m : Motor) : (sendFrame m s).phase = s.phase := rfl
@[simp] theorem sendFrame_engEn (m : Motor) : (sendFrame m s).engEn = s.engEn := rfl
@[simp] theorem sendFrame_engPin (m : Motor) : (sendFrame m s).engPin = s.engPin := rfl
@[simp] theorem sendFrame_now (m : Motor) : (sendFrame m s).now = s.now := rfl
@[simp] theorem sendFrame_response (m : Motor) : (sendFrame m s).response = s.response := rfl
@[simp] theorem sendFrame_held (m : Motor) : (sendFrame m s).held = s.held := rfl
@[simp] theorem sendFrame_sink (m : Motor) : (sendFrame m s).sink = s.sink := rfl
@[simp] theorem sendFrame_inputs (m : Motor) : (sendFrame m s).inputs = s.inputs := rfl

@[simp] theorem deliver_cfg (t : Tlm) : (deliver t s).cfg = s.cfg := by
  unfold deliver; split <;> rfl
@[simp] theorem deliver_motors (t : Tlm) : (deliver t s).motors = s.motors := by
  unfold deliver; split <;> rfl
@[simp] theorem deliver_cur (t : Tlm) : (deliver t s).cur = s.cur := by
  unfold deliver; split <;> rfl
@[simp] theorem deliver_lastCmd (t : Tlm) : (deliver t s).lastCmd = s.lastCmd := by
  unfold deliver; split <;> rfl
@[simp] theorem deliver_phase (t : Tlm) : (deliver t s).phase = s.phase := by
  unfold deliver; split <;> rfl
@[simp] theorem deliver_engEn (t : Tlm) : (deliver t s).engEn = s.engEn := by
  unfold deliver; split <;> rfl
@[simp] theorem deliver_engPin (t : Tlm) : (deliver t s).engPin = s.engPin := by
  unfold deliver; split <;> rfl
@[simp] theorem deliver_now (t : Tlm) : (deliver t s).now = s.now := by
  unfold deliver; split <;> rfl
@[simp] theorem deliver_response (t : Tlm) : (deliver t s).response = s.response := by
  unfold deliver; split <;> rfl
@[simp] theorem deliver_held (t : Tlm) : (deliver t s).held = s.held := by
  unfold deliver; split <;> rfl
@[simp] theorem deliver_engine (t : Tlm) : (deliver t s).engine = s.engine := by
  unfold deliver; split <;> rfl
@[simp] theorem deliver_inputs (t : Tlm) : (deliver t s).inputs = s.inputs := by
  unfold deliver; split <;> rfl

@[simp] theorem countWord_cfg (raw : RxWord) (m : Motor) : (countWord raw m s).cfg = s.cfg := by
  simp [countWord]
@[simp] theorem countWord_cur (raw : RxWord) (m : Motor) : (countWord raw m s).cur = s.cur := by
  simp [countWord]
@[simp] theorem countWord_lastCmd (raw : RxWord) (m : Motor) : (countWord raw m s).lastCmd = s.lastCmd := by
  simp [countWord]
@[simp] theorem countWord_phase (raw : RxWord) (m : Motor) : (countWord raw m s).phase = s.phase := by
  simp [countWord]
@[simp] theorem countWord_engEn (raw : RxWord) (m : Motor) : (countWord raw m s).engEn = s.engEn := by
  simp [countWord]
@[simp] theorem countWord_engPin (raw : RxWord) (m : Motor) : (countWord raw m s).engPin = s.engPin := by
  simp [countWord]
@[simp] theorem countWord_now (raw : RxWord) (m : Motor) : (countWord raw m s).now = s.now := by
  simp [countWord]
@[simp] theorem countWord_response (raw : RxWord) (m : Motor) : (countWord raw m s).response = s.response := by
  simp [countWord]
@[simp] theorem countWord_held (raw : RxWord) (m : Motor) : (countWord raw m s).held = s.held := by
  simp [countWord]
@[simp] theorem countWord_engine (raw : RxWord) (m : Motor) : (countWord raw m s).engine = s.engine := by
  simp [countWord]
@[simp] theorem countWord_inputs (raw : RxWord) (m : Motor) : (countWord raw m s).inputs = s.inputs := by
  simp [countWord]

@[simp] theorem watchdog_cfg : (watchdog s).cfg = s.cfg := by
  unfold watchdog; split <;> rfl
@[simp] theorem watchdog_cur : (watchdog s).cur = s.cur := by
  unfold watchdog; split <;> rfl
@[simp] theorem watchdog_lastCmd : (watchdog s).lastCmd = s.lastCmd := by
  unfold watchdog; split <;> rfl
@[simp] theorem watchdog_phase : (watchdog s).phase = s.phase := by
  unfold watchdog; split <;> rfl
@[simp] theorem watchdog_engEn : (watchdog s).engEn = s.engEn := by
  unfold watchdog; split <;> rfl
@[simp] theorem watchdog_engPin : (watchdog s).engPin = s.engPin := by
  unfold watchdog; split <;> rfl
@[simp] theorem watchdog_now : (watchdog s).now = s.now := by
  unfold watchdog; split <;> rfl
@[simp] theorem watchdog_response : (watchdog s).response = s.response := by
  unfold watchdog; split <;> rfl
@[simp] theorem watchdog_held : (watchdog s).held = s.held := by
  unfold watchdog; split <;> rfl
@[simp] theorem watchdog_engine : (watchdog s).engine = s.engine := by
  unfold watchdog; split <;> rfl
@[simp] theorem watchdog_sink : (watchdog s).sink = s.sink := by
  unfold watchdog; split <;> rfl
@[simp] theorem watchdog_inputs : (watchdog s).inputs = s.inputs := by
  unfold watchdog; split <;> rfl

@[simp] theorem completed_cfg (h : Held) (raw : RxWord) (m : Motor) : (completed h raw m s).cfg = s.cfg := by
  simp [completed]
@[simp] theorem completed_cur (h : Held) (raw : RxWord) (m : Motor) : (completed h raw m s).cur = s.cur := by
  simp [completed]
@[simp] theorem completed_lastCmd (h : Held) (raw : RxWord) (m : Motor) : (completed h raw m s).lastCmd = s.lastCmd := by
  simp [completed]
@[simp] theorem completed_engEn (h : Held) (raw : RxWord) (m : Motor) : (completed h raw m s).engEn = s.engEn := by
  simp [completed]
@[simp] theorem completed_engPin (h : Held) (raw : RxWord) (m : Motor) : (completed h raw m s).engPin = s.engPin := by
  simp [completed]
@[simp] theorem completed_now (h : Held) (raw : RxWord) (m : Motor) : (completed h raw m s).now = s.now := by
  simp [completed]
@[simp] theorem completed_engine (h : Held) (raw : RxWord) (m : Motor) : (completed h raw m s).engine = s.engine := by
  simp [completed]
@[simp] theorem completed_inputs (h : Held) (raw : RxWord) (m : Motor) : (completed h raw m s).inputs = s.inputs := by
  simp [completed]

@[simp] theorem engineTransmit_cfg : (engineTransmit s).cfg = s.cfg := by
  unfold engineTransmit; split <;> (try split) <;> rfl
@[simp] theorem engineTransmit_motors : (engineTransmit s).motors = s.motors := by
  unfold engineTransmit; split <;> (try split) <;> rfl
@[simp] theorem engineTransmit_cur : (engineTransmit s).cur = s.cur := by
  unfold engineTransmit; split <;> (try split) <;> rfl
@[simp] theorem engineTransmit_lastCmd : (engineTransmit s).lastCmd = s.lastCmd := by
  unfold engineTransmit; split <;> (try split) <;> rfl
@[simp] theorem engineTransmit_phase : (engineTransmit s).phase = s.phase := by
  unfold engineTransmit; split <;> (try split) <;> rfl
@[simp] theorem engineTransmit_engEn : (engineTransmit s).engEn = s.engEn := by
  unfold engineTransmit; split <;> (try split) <;> rfl
@[simp] theorem engineTransmit_engPin : (engineTransmit s).engPin = s.engPin := by
  unfold engineTransmit; split <;> (try split) <;> rfl
@[simp] theorem engineTransmit_now : (engineTransmit s).now = s.now := by
  unfold engineTransmit; split <;> (try split) <;> rfl
@[simp] theorem engineTransmit_response : (engineTransmit s).response = s.response := by
  unfold engineTransmit; split <;> (try split) <;> rfl
@[simp] theorem engineTransmit_held : (engineTransmit s).held = s.held := by
  unfold engineTransmit; split <;> (try split) <;> rfl
@[simp] theorem engineTransmit_sink : (engineTransmit s).sink = s.sink := by
  unfold engineTransmit; split <;> (try split) <;> rfl
@[simp] theorem engineTransmit_inputs : (engineTransmit s).inputs = s.inputs := by
  unfold engineTransmit; split <;> (try split) <;> rfl

@[simp] theorem enginePlace_cfg (w : RxWord) : (enginePlace w s).cfg = s.cfg := by
  unfold enginePlace; split <;> rfl
@[simp] theorem enginePlace_motors (w : RxWord) : (enginePlace w s).motors = s.motors := by
  unfold enginePlace; split <;> rfl
@[simp] theorem enginePlace_cur (w : RxWord) : (enginePlace w s).cur = s.cur := by
  unfold enginePlace; split <;> rfl
@[simp] theorem enginePlace_lastCmd (w : RxWord) : (enginePlace w s).lastCmd = s.lastCmd := by
  unfold enginePlace; split <;> rfl
@[simp] theorem enginePlace_phase (w : RxWord) : (enginePlace w s).phase = s.phase := by
  unfold enginePlace; split <;> rfl
@[simp] theorem enginePlace_engEn (w : RxWord) : (enginePlace w s).engEn = s.engEn := by
  unfold enginePlace; split <;> rfl
@[simp] theorem enginePlace_engPin (w : RxWord) : (enginePlace w s).engPin = s.engPin := by
  unfold enginePlace; split <;> rfl
@[simp] theorem enginePlace_now (w : RxWord) : (enginePlace w s).now = s.now := by
  unfold enginePlace; split <;> rfl
@[simp] theorem enginePlace_response (w : RxWord) : (enginePlace w s).response = s.response := by
  unfold enginePlace; split <;> rfl
@[simp] theorem enginePlace_held (w : RxWord) : (enginePlace w s).held = s.held := by
  unfold enginePlace; split <;> rfl
@[simp] theorem enginePlace_sink (w : RxWord) : (enginePlace w s).sink = s.sink := by
  unfold enginePlace; split <;> rfl
@[simp] theorem enginePlace_inputs (w : RxWord) : (enginePlace w s).inputs = s.inputs := by
  unfold enginePlace; split <;> rfl

@[simp] theorem engineMove_cfg (m : EngineMove) : (engineMove m s).cfg = s.cfg := by
  cases m <;> simp [engineMove]
@[simp] theorem engineMove_motors (m : EngineMove) : (engineMove m s).motors = s.motors := by
  cases m <;> simp [engineMove]
@[simp] theorem engineMove_cur (m : EngineMove) : (engineMove m s).cur = s.cur := by
  cases m <;> simp [engineMove]
@[simp] theorem engineMove_lastCmd (m : EngineMove) : (engineMove m s).lastCmd = s.lastCmd := by
  cases m <;> simp [engineMove]
@[simp] theorem engineMove_phase (m : EngineMove) : (engineMove m s).phase = s.phase := by
  cases m <;> simp [engineMove]
@[simp] theorem engineMove_engEn (m : EngineMove) : (engineMove m s).engEn = s.engEn := by
  cases m <;> simp [engineMove]
@[simp] theorem engineMove_engPin (m : EngineMove) : (engineMove m s).engPin = s.engPin := by
  cases m <;> simp [engineMove]
@[simp] theorem engineMove_now (m : EngineMove) : (engineMove m s).now = s.now := by
  cases m <;> simp [engineMove]
@[simp] theorem engineMove_response (m : EngineMove) : (engineMove m s).response = s.response := by
  cases m <;> simp [engineMove]
@[simp] theorem engineMove_held (m : EngineMove) : (engineMove m s).held = s.held := by
  cases m <;> simp [engineMove]
@[simp] theorem engineMove_sink (m : EngineMove) : (engineMove m s).sink = s.sink := by
  cases m <;> simp [engineMove]
@[simp] theorem engineMove_inputs (m : EngineMove) : (engineMove m s).inputs = s.inputs := by
  cases m <;> simp [engineMove]

@[simp] theorem sendFrame_engine (m : Motor) :
    (sendFrame m s).engine = { s.engine with txSlot := s.engine.txSlot ++ [⟨m.frame, gapOfSpeed s.cfg⟩] } := rfl

@[simp] theorem sendFrame_motors (m : Motor) :
    (sendFrame m s).motors = s.motors.set s.cur.toNat m.countDown := rfl

end Sys2Proof.Machine
end

