-- ==== Sys2Proof/Laws/Ops.lean ====
section
/-! SUPPORT. For each shared operation, one lemma that says everything it can answer; at the end, everything one step
can do. A proof about runs cites these and unfolds nothing. -/

namespace Sys2Proof.Machine

variable {s t : State}

theorem motorAt_eq_some {c : Channel} {m : Motor} : motorAt s c = some m ↔ s.motors[c.toNat]? = some m := Iff.rfl

theorem inRange_eq_true {c : Channel} : inRange s c = true ↔ c.toNat < s.cfg.n.toNat := by simp [inRange]

theorem withMotor_eq_next {c : Channel} {k : Motor → Result} :
    withMotor c s k = .next t ↔ ∃ m, s.motors[c.toNat]? = some m ∧ k m = .next t := by
  unfold withMotor motorAt
  cases s.motors[c.toNat]? <;> simp

theorem onChannel_eq_next {c : Channel} {k : Motor → Result} :
    onChannel c s k = .next t ↔
      (c.toNat < s.cfg.n.toNat ∧ ∃ m, s.motors[c.toNat]? = some m ∧ k m = .next t) ∨
      (¬ c.toNat < s.cfg.n.toNat ∧ t = respond .ignored 0 s) := by
  unfold onChannel
  by_cases h : c.toNat < s.cfg.n.toNat <;> simp [inRange, h, withMotor_eq_next, eq_comm (a := t)]

theorem answer_eq_next {d : RespData} : answer d s = .next t ↔ t = respond .ok d s := by simp [answer, eq_comm]

@[simp] theorem isIdle_setRxSlot {ws : List RxWord} : isIdle (setRxSlot ws s) = isIdle s := rfl

@[simp] theorem isIdle_countWord {raw : RxWord} {m : Motor} : isIdle (countWord raw m s) = isIdle s := by
  simp [isIdle]

@[simp] theorem engTxFree_selectNext : engTxFree (selectNext s) = engTxFree s := by simp [engTxFree]

theorem selectNext_cur : (selectNext s).cur = if 1 < s.cfg.n.toNat then nextChannel s else s.cur := by
  unfold selectNext; split <;> rfl

theorem selectNext_engPin :
    (selectNext s).engPin = if 1 < s.cfg.n.toNat then pinOf s.cfg (nextChannel s) else s.engPin := by
  unfold selectNext; split <;> rfl

theorem selectNext_engEn : (selectNext s).engEn = if 1 < s.cfg.n.toNat then true else s.engEn := by
  unfold selectNext; split <;> rfl

/-- Everything a start phase can do: a frame sent, or the transmit slot not free. -/
theorem startPhase_eq_some {b : Bool} :
    startPhase s = some (t, b) ↔
      (engTxFree s = true ∧ b = true ∧ ∃ m, s.motors[(selectNext s).cur.toNat]? = some m ∧
        t = setPhase .started (sendFrame m (selectNext s))) ∨
      (engTxFree s = false ∧ b = false ∧ t = setPhase .started (selectNext s)) := by
  unfold startPhase
  by_cases h : engTxFree s = true
  · cases hm : s.motors[(selectNext s).cur.toNat]? <;> simp [h, motorAt, hm, eq_comm, and_comm]
  · simp [h, eq_comm, and_comm]

theorem completeWith_eq_next {h : Held} {raw : RxWord} :
    completeWith h raw s = .next t ↔ ∃ m, s.motors[s.cur.toNat]? = some m ∧ t = completed h raw m s := by
  simp [completeWith, withMotor_eq_next, eq_comm (a := t)]

/-- Everything a completion can do: hold with nothing else written, or complete with the oldest receive word. -/
theorem completeOrHold_eq_next {h : Held} :
    completeOrHold h s = .next t ↔
      (s.engine.rxSlot = [] ∧ t = setHeld (some h) s) ∨
      (∃ raw rest m, s.engine.rxSlot = raw :: rest ∧ s.motors[s.cur.toNat]? = some m ∧
        t = completed h raw m (setRxSlot rest s)) := by
  unfold completeOrHold engPop
  cases hr : s.engine.rxSlot with
  | nil => simp [eq_comm]
  | cons raw rest => simp [completeWith_eq_next]

@[simp] theorem completed_phase {h : Held} {raw : RxWord} {m : Motor} : (completed h raw m s).phase = .idle := by
  simp [completed]

@[simp] theorem completed_held {h : Held} {raw : RxWord} {m : Motor} : (completed h raw m s).held = none := by
  simp [completed]

@[simp] theorem completed_response {h : Held} {raw : RxWord} {m : Motor} : (completed h raw m s).response =
    some ⟨.ok, heldData h (tickCompleteData (isIdle s) (tlmFn s.cfg raw).res s.cur)⟩ := rfl

/-- The Motor file after a completion: one counter of `M[cur]`, then the watchdog on every channel. -/
theorem completed_motors {h : Held} {raw : RxWord} {m : Motor} : (completed h raw m s).motors =
    if isIdle s then (s.motors.set s.cur.toNat (m.count s.cfg.cntWidth (tlmFn s.cfg raw).res)).map Motor.forced
    else s.motors.set s.cur.toNat (m.count s.cfg.cntWidth (tlmFn s.cfg raw).res) := by
  simp only [completed, respond_motors, setHeld_motors, setPhase_motors, watchdog, isIdle_countWord]
  split <;> simp [countWord]

/-- The sink after a completion: one reading more exactly when the result is OK. -/
theorem completed_sink {h : Held} {raw : RxWord} {m : Motor} : (completed h raw m s).sink =
    if (tlmFn s.cfg raw).res = .ok then s.sink ++ [⟨s.cur, (tlmFn s.cfg raw).kind, (tlmFn s.cfg raw).value⟩]
    else s.sink := by
  simp only [completed, respond_sink, setHeld_sink, setPhase_sink, watchdog_sink, countWord, setMotor_sink, deliver]
  split <;> rfl

theorem execThrottle_eq_next {c : Channel} {v : BitVec 11} :
    execThrottle c v s = .next t ↔
      (c.toNat < s.cfg.n.toNat ∧ ∃ m, s.motors[c.toNat]? = some m ∧
        t = respond .ok 0 (touchLastCmd (setMotor c (m.throttled (encodeFrame v false)) s))) ∨
      (¬ c.toNat < s.cfg.n.toNat ∧ t = respond .ignored 0 s) := by
  simp [execThrottle, onChannel_eq_next, eq_comm (a := t)]

theorem execCommand_eq_next {c : Channel} {k : BitVec 6} :
    execCommand c k s = .next t ↔ k.toNat ≤ 47 ∧
      ((c.toNat < s.cfg.n.toNat ∧ ∃ m, s.motors[c.toNat]? = some m ∧
        t = respond .ok 0
          (touchLastCmd (setMotor c (m.commanded (encodeFrame (k.setWidth 11) true) s.cfg.repeatCount) s))) ∨
      (¬ c.toNat < s.cfg.n.toNat ∧ t = respond .ignored 0 s)) := by
  unfold execCommand
  by_cases h : 47 < k.toNat
  · simp [h]
  · simp [h, onChannel_eq_next, Nat.le_of_not_lt h, eq_comm (a := t)]

theorem execReadStat_eq_next {c : Channel} {sel : StatSel} :
    execReadStat c sel s = .next t ↔
      (c.toNat < s.cfg.n.toNat ∧ ∃ m, s.motors[c.toNat]? = some m ∧
        t = respond .ok (BitVec.ofNat 32 (m.stat sel)) s) ∨
      (¬ c.toNat < s.cfg.n.toNat ∧ t = respond .ignored 0 s) := by
  simp [execReadStat, onChannel_eq_next, answer, eq_comm (a := t)]

theorem execTickStart_eq_next :
    execTickStart s = .next t ↔ s.phase = .idle ∧ ∃ s1 b, startPhase s = some (s1, b) ∧
      t = respond .ok (tickStartData b s1.cur) s1 := by
  unfold execTickStart
  by_cases h : s.phase = .idle
  · cases hp : startPhase s with
    | none => simp [h]
    | some p =>
      obtain ⟨s1, b⟩ := p
      simp only [h, if_true, Host.Outcome.next.injEq, true_and, Option.some.injEq, Prod.mk.injEq]
      exact ⟨fun e => ⟨s1, b, ⟨rfl, rfl⟩, e.symm⟩, fun ⟨_, _, ⟨h1, h2⟩, e⟩ => by rw [e, ← h1, ← h2]⟩
  · simp [h]

theorem execTickComplete_eq_next :
    execTickComplete s = .next t ↔ s.phase = .started ∧ completeOrHold .complete s = .next t := by
  unfold execTickComplete
  by_cases h : s.phase = .started <;> simp [h]

theorem execTick_eq_next :
    execTick s = .next t ↔ s.phase = .idle ∧ ∃ s1 b, startPhase s = some (s1, b) ∧
      completeOrHold (.tick (tickStartData b s1.cur)) s1 = .next t := by
  unfold execTick
  by_cases h : s.phase = .idle
  · cases hp : startPhase s with
    | none => simp [h]
    | some p =>
      obtain ⟨s1, b⟩ := p
      simp only [h, if_true, true_and, Option.some.injEq, Prod.mk.injEq]
      exact ⟨fun e => ⟨s1, b, ⟨rfl, rfl⟩, e⟩, fun ⟨_, _, ⟨h1, h2⟩, e⟩ => by rw [h1, h2]; exact e⟩
  · simp [h]

/-- The operations that write no state but the response (spec/20_memory.md R52). -/
def isPure : Instr → Bool
  | .nop | .crc4 _ | .encode _ _ | .frameDecode _ | .gcrSymbol _ | .tlmDecode _ | .tlmClassify _ | .readStat _ _ => true
  | .throttle _ _ | .command _ _ | .tickStart | .tickComplete | .tick => false

theorem exec_pure {i : Instr} (hi : isPure i = true) (h : exec i s = .next t) :
    ∃ st d, t = respond st d s := by
  cases i with
  | nop => exact ⟨_, _, answer_eq_next.1 h⟩
  | crc4 p => exact ⟨_, _, answer_eq_next.1 h⟩
  | encode v b => exact ⟨_, _, answer_eq_next.1 h⟩
  | frameDecode f => exact ⟨_, _, answer_eq_next.1 h⟩
  | gcrSymbol y => exact ⟨_, _, answer_eq_next.1 h⟩
  | tlmDecode w => exact ⟨_, _, answer_eq_next.1 h⟩
  | tlmClassify d => exact ⟨_, _, answer_eq_next.1 h⟩
  | readStat c sel =>
    obtain ⟨-, m, -, rfl⟩ | ⟨-, rfl⟩ := execReadStat_eq_next.1 h <;> exact ⟨_, _, rfl⟩
  | throttle c v => simp [isPure] at hi
  | command c k => simp [isPure] at hi
  | tickStart => simp [isPure] at hi
  | tickComplete => simp [isPure] at hi
  | tick => simp [isPure] at hi

/-- Everything a performed operation can do when it answers a next state. -/
theorem exec_cases {i : Instr} (h : exec i s = .next t) :
    (i ≠ .tickStart ∧ i ≠ .tickComplete ∧ i ≠ .tick ∧ ∃ st d, t = respond st d s) ∨
    (∃ c v m, i = .throttle c v ∧ c.toNat < s.cfg.n.toNat ∧ s.motors[c.toNat]? = some m ∧
      t = respond .ok 0 (touchLastCmd (setMotor c (m.throttled (encodeFrame v false)) s))) ∨
    (∃ c k m, i = .command c k ∧ c.toNat < s.cfg.n.toNat ∧ s.motors[c.toNat]? = some m ∧
      t = respond .ok 0
        (touchLastCmd (setMotor c (m.commanded (encodeFrame (k.setWidth 11) true) s.cfg.repeatCount) s))) ∨
    (i = .tickStart ∧ s.phase = .idle ∧ ∃ s1 b, startPhase s = some (s1, b) ∧
      t = respond .ok (tickStartData b s1.cur) s1) ∨
    (i = .tickComplete ∧ s.phase = .started ∧ completeOrHold .complete s = .next t) ∨
    (i = .tick ∧ s.phase = .idle ∧ ∃ s1 b, startPhase s = some (s1, b) ∧
      completeOrHold (.tick (tickStartData b s1.cur)) s1 = .next t) := by
  by_cases hp : isPure i = true
  · exact .inl ⟨fun e => by simp [e, isPure] at hp, fun e => by simp [e, isPure] at hp, fun e => by simp [e, isPure] at hp,
      exec_pure hp h⟩
  · cases i with
    | throttle c v =>
      obtain ⟨hc, m, hm, rfl⟩ | ⟨-, rfl⟩ := execThrottle_eq_next.1 h
      · exact .inr (.inl ⟨c, v, m, rfl, hc, hm, rfl⟩)
      · exact .inl ⟨nofun, nofun, nofun, _, _, rfl⟩
    | command c k =>
      obtain ⟨-, ⟨hc, m, hm, rfl⟩ | ⟨-, rfl⟩⟩ := execCommand_eq_next.1 h
      · exact .inr (.inr (.inl ⟨c, k, m, rfl, hc, hm, rfl⟩))
      · exact .inl ⟨nofun, nofun, nofun, _, _, rfl⟩
    | tickStart =>
      obtain ⟨hph, r⟩ := execTickStart_eq_next.1 h
      exact .inr (.inr (.inr (.inl ⟨rfl, hph, r⟩)))
    | tickComplete =>
      obtain ⟨hph, r⟩ := execTickComplete_eq_next.1 h
      exact .inr (.inr (.inr (.inr (.inl ⟨rfl, hph, r⟩))))
    | tick =>
      obtain ⟨hph, r⟩ := execTick_eq_next.1 h
      exact .inr (.inr (.inr (.inr (.inr ⟨rfl, hph, r⟩))))
    | nop => simp [isPure] at hp
    | crc4 p => simp [isPure] at hp
    | encode v b => simp [isPure] at hp
    | frameDecode f => simp [isPure] at hp
    | gcrSymbol y => simp [isPure] at hp
    | tlmDecode w => simp [isPure] at hp
    | tlmClassify d => simp [isPure] at hp
    | readStat c sel => simp [isPure] at hp

/-- Whatever the engine does, one move adds no frame to its transmit slot and takes no word from its receive slot. -/
theorem engineMove_slots (m : EngineMove) :
    ((engineMove m s).engine.txSlot = s.engine.txSlot ∨ ∃ e, s.engine.txSlot = e :: (engineMove m s).engine.txSlot) ∧
    ((engineMove m s).engine.rxSlot = s.engine.rxSlot ∨
      ∃ w, s.engine.rxSlot.length < s.cfg.engRxDepth ∧ (engineMove m s).engine.rxSlot = s.engine.rxSlot ++ [w]) := by
  cases m with
  | transmit =>
    simp only [engineMove, engineTransmit]
    cases h : s.engine.txSlot with
    | nil => simp [h]
    | cons e rest => by_cases he : s.engEn = true <;> simp [he, h]
  | place w =>
    simp only [engineMove, enginePlace]
    by_cases h : s.engine.rxSlot.length < s.cfg.engRxDepth <;> simp [h]
  | report b => simp [engineMove]

/-- The turn in which the block performs a request: none is held, the request is the next input, its time does not run
backwards and its word is not reserved. -/
theorem turn_eq_perform {i : Instr} {u : State} :
    turn s = .perform i u ↔ s.held = none ∧ ∃ w τ rest, s.inputs = .request w τ :: rest ∧ s.now ≤ τ ∧
      decode w = .instr i ∧ u = sample τ (setInputs rest s) := by
  unfold turn
  cases hh : s.held with
  | some h => simp
  | none =>
    cases hi : s.inputs with
    | nil => simp
    | cons x rest =>
      cases x with
      | engine m => simp
      | request w τ =>
        simp only [acceptRequest, setInputs_now]
        by_cases hτ : τ < s.now
        · simp [hτ]
        · cases hd : decode w with
          | reserved why => simp [hτ, hd]
          | instr j => simp [hτ, hd, Nat.le_of_not_lt hτ, eq_comm]

/-- Everything one step can do when it answers a next state: with no request performed, nothing, an engine move, or a
held request completing; or an accepted request performed. -/
theorem step_cases (h : step s = .next t) :
    ((∀ i u, turn s ≠ .perform i u) ∧
      (t = s ∨ (∃ m xs, t = engineMove m (setInputs xs s)) ∨
        (∃ hd raw rest m, s.held = some hd ∧ s.engine.rxSlot = raw :: rest ∧ s.motors[s.cur.toNat]? = some m ∧
          t = completed hd raw m (setRxSlot rest s)))) ∨
    (∃ i w τ rest, s.held = none ∧ s.inputs = .request w τ :: rest ∧ s.now ≤ τ ∧ decode w = .instr i ∧
      turn s = .perform i (sample τ (setInputs rest s)) ∧ exec i (sample τ (setInputs rest s)) = .next t) := by
  unfold step at h
  cases hT : turn s with
  | perform i u =>
    rw [hT] at h
    obtain ⟨hh, w, τ, rest, hi, hτ, hd, rfl⟩ := turn_eq_perform.1 hT
    exact .inr ⟨i, w, τ, rest, hh, hi, hτ, hd, rfl, h⟩
  | settled r =>
    rw [hT] at h
    subst h
    refine .inl ⟨nofun, ?_⟩
    unfold turn at hT
    cases hh : s.held with
    | some hd =>
      simp only [hh, Turn.settled.injEq, heldTurn] at hT
      cases hr : s.engine.rxSlot with
      | cons raw rest =>
        simp only [engRxReady, hr, List.isEmpty_cons, Bool.not_false, if_true, completeOrHold_eq_next] at hT
        obtain ⟨h0, -⟩ | ⟨raw', rest', m, he, hm, rfl⟩ := hT
        · simp at h0
        · simp only [List.cons.injEq] at he
          obtain ⟨rfl, rfl⟩ := he
          exact .inr (.inr ⟨hd, raw, rest, m, rfl, rfl, hm, rfl⟩)
      | nil =>
        simp only [engRxReady, hr, List.isEmpty_nil, Bool.not_true, Bool.false_eq_true, if_false] at hT
        cases hx : takeEngineMove s.inputs with
        | none => simp only [hx, Host.Outcome.next.injEq] at hT; exact .inl hT.symm
        | some p =>
          obtain ⟨m, xs⟩ := p
          simp only [hx, Host.Outcome.next.injEq] at hT
          exact .inr (.inl ⟨m, xs, hT.symm⟩)
    | none =>
      simp only [hh] at hT
      cases hi : s.inputs with
      | nil => simp only [hi, Turn.settled.injEq, Host.Outcome.next.injEq] at hT; exact .inl hT.symm
      | cons x rest =>
        cases x with
        | engine m =>
          simp only [hi, Turn.settled.injEq, Host.Outcome.next.injEq] at hT
          exact .inr (.inl ⟨m, rest, hT.symm⟩)
        | request w τ =>
          simp only [hi, acceptRequest] at hT
          split at hT
          · simp at hT
          · split at hT <;> simp at hT

end Sys2Proof.Machine
end

