-- ==== Sys2Proof/Laws/Inputs.lean ====
section
/-! SUPPORT. How the inputs are taken: everything `takeEngineMove` can answer, what a held turn can do, and that no engine
move looks at what is held. -/

namespace Sys2Proof.Machine

@[simp] theorem requestsOf_nil : requestsOf [] = [] := rfl

@[simp] theorem requestsOf_request (w : ReqWord) (t : Micros) (xs : List Input) :
    requestsOf (.request w t :: xs) = .request w t :: requestsOf xs := rfl

@[simp] theorem requestsOf_engine (m : EngineMove) (xs : List Input) : requestsOf (.engine m :: xs) = requestsOf xs := rfl

@[simp] theorem requestsOf_append (xs ys : List Input) : requestsOf (xs ++ ys) = requestsOf xs ++ requestsOf ys :=
  List.filter_append ..

/-- A list is its own requests exactly when no engine move stands in it. -/
theorem requestsOf_eq_self {xs : List Input} : requestsOf xs = xs ↔ ∀ m, Input.engine m ∉ xs := by
  unfold requestsOf
  rw [List.filter_eq_self]
  refine ⟨fun h m hm => by simpa using h _ hm, fun h x hx => ?_⟩
  cases x with
  | request w t => rfl
  | engine m => exact absurd hx (h m)

/-- No engine move is found exactly when none stands in the list. -/
theorem takeEngineMove_eq_none {xs : List Input} : takeEngineMove xs = none ↔ requestsOf xs = xs := by
  induction xs with
  | nil => simp [takeEngineMove]
  | cons x rest ih =>
    cases x with
    | request w t => simp [takeEngineMove, ih]
    | engine m =>
      simp only [takeEngineMove, reduceCtorEq, false_iff]
      exact fun h => requestsOf_eq_self.1 h m List.mem_cons_self

/-- The first engine move is taken from its place, past the requests before it. -/
theorem takeEngineMove_append {waiting : List Input} (h : requestsOf waiting = waiting) (m : EngineMove)
    (rest : List Input) : takeEngineMove (waiting ++ .engine m :: rest) = some (m, waiting ++ rest) := by
  induction waiting with
  | nil => rfl
  | cons x xs ih =>
    cases x with
    | request w t =>
      simp only [requestsOf_request, List.cons.injEq, true_and] at h
      simp [takeEngineMove, ih h]
    | engine m => exact absurd List.mem_cons_self (requestsOf_eq_self.1 h m)

/-- Taking an engine move takes no request and keeps their order. -/
theorem requestsOf_takeEngineMove {xs rest : List Input} {m : EngineMove} (h : takeEngineMove xs = some (m, rest)) :
    requestsOf rest = requestsOf xs := by
  induction xs generalizing rest with
  | nil => simp [takeEngineMove] at h
  | cons x xs ih =>
    cases x with
    | engine k =>
      simp only [takeEngineMove, Option.some.injEq, Prod.mk.injEq] at h
      rw [← h.2, requestsOf_engine]
    | request w t =>
      simp only [takeEngineMove, Option.map_eq_some_iff, Prod.mk.injEq] at h
      obtain ⟨p, hp, rfl, rfl⟩ := h
      simp [ih hp]

/-- A held request with a word in the receive slot: the step is its completion. -/
theorem step_held_ready {s : State} {h : Held} (hh : s.held = some h) (hr : s.engine.rxSlot ≠ []) :
    step s = completeOrHold h s := by
  simp [step, turn, hh, heldTurn, engRxReady, hr]

/-- A held request with no word: the step is the first engine move of the inputs, or nothing. -/
theorem step_held_waiting {s : State} {h : Held} (hh : s.held = some h) (hr : s.engine.rxSlot = []) :
    step s = .next (match takeEngineMove s.inputs with
      | none => s
      | some (m, rest) => engineMove m (setInputs rest s)) := by
  simp only [step, turn, hh, heldTurn, engRxReady, hr, List.isEmpty_nil, Bool.not_true, Bool.false_eq_true, if_false]
  cases takeEngineMove s.inputs <;> rfl

/-- An engine move neither reads nor writes what is held. -/
theorem engineMove_withHeld (m : EngineMove) (h : Option Held) (s : State) :
    engineMove m { s with held := h } = { engineMove m s with held := h } := by
  cases m with
  | report b => rfl
  | place w =>
    simp only [engineMove, enginePlace]
    split <;> rfl
  | transmit =>
    simp only [engineMove, engineTransmit]
    split
    · rfl
    · split <;> rfl

end Sys2Proof.Machine
end

