-- ==== Sys2Proof/Laws/Motor.lean ====
section
/-! SUPPORT. Each named update of a Motor record keeps `Motor.Wf`, and the frames the codec makes have a valid CRC. -/

namespace Sys2Proof.Machine

variable {c : Config} {m : Motor}

theorem neutral_eq : neutral = 0x000F := by decide

/-- An encoded frame's CRC is valid (spec/40_frame_codec.md R80). -/
theorem frameCrcOk_encodeFrame (v : BitVec 11) (b : Bool) : frameCrcOk (encodeFrame v b) = true := by
  cases b <;> (revert v; decide +kernel)

theorem bump_lt (w n : Nat) : bump w n < 2 ^ w := Nat.mod_lt _ (Nat.two_pow_pos w)

theorem Motor.forced_wf (h : m.Wf c) : m.forced.Wf c where
  frame_crc := frameCrcOk_encodeFrame 0 false
  fallback_crc := frameCrcOk_encodeFrame 0 false
  repeats_zero := fun _ => rfl
  repeats_le := Nat.zero_le _
  good_lt := h.good_lt
  badGcr_lt := h.badGcr_lt
  badCrc_lt := h.badCrc_lt
  badType_lt := h.badType_lt
  timeouts_lt := h.timeouts_lt

theorem Motor.throttled_wf (h : m.Wf c) (v : BitVec 11) : (m.throttled (encodeFrame v false)).Wf c where
  frame_crc := frameCrcOk_encodeFrame v false
  fallback_crc := frameCrcOk_encodeFrame v false
  repeats_zero := fun _ => rfl
  repeats_le := Nat.zero_le _
  good_lt := h.good_lt
  badGcr_lt := h.badGcr_lt
  badCrc_lt := h.badCrc_lt
  badType_lt := h.badType_lt
  timeouts_lt := h.timeouts_lt

theorem Motor.commanded_wf (hc : c.Wf) (h : m.Wf c) (v : BitVec 11) :
    (m.commanded (encodeFrame v true) c.repeatCount).Wf c where
  frame_crc := frameCrcOk_encodeFrame v true
  fallback_crc := h.fallback_crc
  repeats_zero := fun e => by
    have h1 := hc.2.2.1
    rw [show c.repeatCount = 0 from e] at h1
    exact absurd h1 (by decide)
  repeats_le := Nat.le_refl _
  good_lt := h.good_lt
  badGcr_lt := h.badGcr_lt
  badCrc_lt := h.badCrc_lt
  badType_lt := h.badType_lt
  timeouts_lt := h.timeouts_lt

theorem Motor.countDown_wf (h : m.Wf c) : m.countDown.Wf c := by
  unfold Motor.countDown
  split
  · exact h
  · rename_i h0
    split
    · exact { h with frame_crc := h.fallback_crc, repeats_zero := fun _ => rfl, repeats_le := Nat.zero_le _ }
    · rename_i h1
      have hl := h.repeats_le
      refine { h with repeats_zero := fun e => absurd e (by simp only; bv_omega), repeats_le := ?_ }
      simp only
      bv_omega

theorem Motor.count_wf (h : m.Wf c) (r : Res) : (m.count c.cntWidth r).Wf c := by
  cases r
  · exact { h with good_lt := bump_lt _ _ }
  · exact { h with timeouts_lt := bump_lt _ _ }
  · exact { h with badGcr_lt := bump_lt _ _ }
  · exact { h with badCrc_lt := bump_lt _ _ }
  · exact { h with badType_lt := bump_lt _ _ }
  · exact { h with badType_lt := bump_lt _ _ }

end Sys2Proof.Machine
end

