-- ==== Sys2Proof/Laws/PerInstr.lean ====
section
/-! SUPPORT. For every instruction: its word matches its own row of spec/opcode_table.json (spec/30_encoding.md R69, R75),
the row's mask applied. One lemma per constructor. -/

namespace Sys2Proof.Laws.Row

/-- The word of `i` under the mask of its row is the row's match. -/
def Statement (i : Instr) : Prop := Sys2Proof.encode i &&& i.op.mask = i.op.pattern

/-- A row whose mask, written as the four fields of R68, leaves no bit of the operands matches the word. -/
theorem of_fields {i : Instr} (o : Op) (mc : BitVec 8) (ma : BitVec 32) (ho : i.op = o)
    (hm : o.mask = 0xF#4 ++ mc ++ 0xFFFFF#20 ++ ma) (h1 : i.chOperand &&& mc = 0) (h2 : i.aOperand &&& ma = 0) :
    Statement i := by
  unfold Statement Sys2Proof.encode Op.pattern
  rw [ho, hm, BitVec.and_append, BitVec.and_append, BitVec.and_append, h1, h2]
  cases o <;> decide

/-- A field zero-extended to `A` has no 1 above its width. -/
theorem setWidth_and {n : Nat} (x : BitVec n) (ma : BitVec 32) (h : ∀ i < n, ma.getLsbD i = false) :
    x.setWidth 32 &&& ma = 0 := by
  apply BitVec.eq_of_getLsbD_eq
  intro i hi
  by_cases hn : i < n
  · simp [h i hn]
  · simp [BitVec.getLsbD_of_ge x i (Nat.le_of_not_lt hn)]

theorem nop : Statement .nop := of_fields .nop 0xFF 0xFFFFFFFF rfl (by decide) rfl rfl

theorem crc4 (p : BitVec 12) : Statement (.crc4 p) :=
  of_fields .crc4 0xFF 0xFFFFF000 rfl (by decide) BitVec.zero_and (setWidth_and p _ (by decide))

theorem encode (v : BitVec 11) (t : Bool) : Statement (.encode v t) :=
  of_fields .encode 0xFF 0xFFFFF000 rfl (by decide) BitVec.zero_and (setWidth_and _ _ (by decide))

theorem frameDecode (f : BitVec 16) : Statement (.frameDecode f) :=
  of_fields .frameDecode 0xFF 0xFFFF0000 rfl (by decide) BitVec.zero_and (setWidth_and f _ (by decide))

theorem gcrSymbol (y : BitVec 5) : Statement (.gcrSymbol y) :=
  of_fields .gcrSymbol 0xFF 0xFFFFFFE0 rfl (by decide) BitVec.zero_and (setWidth_and y _ (by decide))

theorem tlmDecode (w : BitVec 32) : Statement (.tlmDecode w) :=
  of_fields .tlmDecode 0xFF 0 rfl (by decide) BitVec.zero_and BitVec.and_zero

theorem tlmClassify (d : BitVec 12) : Statement (.tlmClassify d) :=
  of_fields .tlmClassify 0xFF 0xFFFFF000 rfl (by decide) BitVec.zero_and (setWidth_and d _ (by decide))

theorem throttle (ch : BitVec 8) (v : BitVec 11) : Statement (.throttle ch v) :=
  of_fields .throttle 0 0xFFFFF800 rfl (by decide) BitVec.and_zero (setWidth_and v _ (by decide))

theorem command (ch : BitVec 8) (k : BitVec 6) : Statement (.command ch k) :=
  of_fields .command 0 0xFFFFFFC0 rfl (by decide) BitVec.and_zero (setWidth_and k _ (by decide))

theorem tickStart : Statement .tickStart := of_fields .tickStart 0xFF 0xFFFFFFFF rfl (by decide) rfl rfl

theorem tickComplete : Statement .tickComplete := of_fields .tickComplete 0xFF 0xFFFFFFFF rfl (by decide) rfl rfl

theorem tick : Statement .tick := of_fields .tick 0xFF 0xFFFFFFFF rfl (by decide) rfl rfl

theorem readStat (ch : BitVec 8) (sel : StatSel) : Statement (.readStat ch sel) :=
  of_fields .readStat 0 0xFFFFFFF8 rfl (by decide) BitVec.and_zero (setWidth_and sel.code _ (by decide))

end Sys2Proof.Laws.Row
end

