-- ==== Sys2Proof/Tests/Slice0.lean ====
section
/-! SUPPORT. The model's own tests. Expected values come from spec/95_test_vectors.md, the corner cases of the rules and
spec/opcode_table.json; at the end, for each statement of `Certificates/Slice0/Obligations.lean` with hypotheses, states
and operands that meet them. -/

namespace Sys2Proof.Tests

open Sys2Proof.Machine

-- ==== helpers ====

/-- The default parameters with `n` channels from pin 8 and numbered gaps. -/
def smallCfg (n : BitVec 9) : Config := { defaultConfig with n := n, pinBase := 8, gap := #v[10, 20, 30, 40] }

/-- A constructed Controller of `n` channels, in a phase, with given slots and inputs, at time 0. -/
def small (n : BitVec 9) (p : Phase) (tx : List TxEntry) (rx : List RxWord) (ins : List Input) : State :=
  { State.construct (smallCfg n) ⟨tx, rx, true, []⟩ 0 with phase := p, inputs := ins }

/-- The same with all slots empty, no input, phase IDLE. -/
def idle4 : State := small 4 .idle [] [] []

/-- One channel, in phase STARTED, one receive word. -/
def waiting (w : RxWord) : State := small 1 .started [] [w] []

/-- The next state, when there is one. -/
def nextOf : Host.Outcome State Fault Refusal → Option State
  | .next t => some t
  | .fault _ => none
  | .refused _ => none

/-- The refusal, when there is one. -/
def refusalOf : Host.Outcome State Fault Refusal → Option Refusal
  | .next _ => none
  | .fault _ => none
  | .refused r => some r

theorem eq_next_of {r : Host.Outcome State Fault Refusal} {t : State} (h : nextOf r = some t) : r = .next t := by
  cases r with
  | next u => simp only [nextOf, Option.some.injEq] at h; rw [h]
  | fault f => simp [nextOf] at h
  | refused q => simp [nextOf] at h

/-- The state after an operation, or the state before it where it stops. -/
def after (i : Instr) (s : State) : State := (nextOf (exec i s)).getD s

/-- The state after a step, or the state before it where it stops. -/
def stepped (s : State) : State := (nextOf (step s)).getD s

theorem exec_after {i : Instr} {s : State} (h : (nextOf (exec i s)).isSome = true) : exec i s = .next (after i s) := by
  apply eq_next_of
  obtain ⟨t, ht⟩ := Option.isSome_iff_exists.1 h
  simp [after, ht]

theorem step_stepped {s : State} (h : (nextOf (step s)).isSome = true) : step s = .next (stepped s) := by
  apply eq_next_of
  obtain ⟨t, ht⟩ := Option.isSome_iff_exists.1 h
  simp [stepped, ht]

theorem atReset_wf (c : Config) : Motor.atReset.Wf c where
  frame_crc := by decide
  fallback_crc := by decide
  repeats_zero := fun _ => rfl
  repeats_le := Nat.zero_le _
  good_lt := Nat.two_pow_pos _
  badGcr_lt := Nat.two_pow_pos _
  badCrc_lt := Nat.two_pow_pos _
  badType_lt := Nat.two_pow_pos _
  timeouts_lt := Nat.two_pow_pos _

theorem small_wf {n : BitVec 9} {p : Phase} {tx : List TxEntry} {rx : List RxWord} {ins : List Input}
    (hn : (smallCfg n).Wf) (ht : tx.length ≤ 1) (hr : rx.length ≤ 1) : (small n p tx rx ins).Wf where
  cfg := hn
  motors_length := List.length_replicate
  motors := fun m hm => by rw [List.eq_of_mem_replicate hm]; exact atReset_wf _
  cur_lt := hn.1.1
  engEn := rfl
  engPin := rfl
  lastCmd_le := Nat.le_refl _
  engine := ⟨ht, hr⟩
  held := nofun

theorem small4_wf {p : Phase} {ins : List Input} : (small 4 p [] [] ins).Wf := small_wf (by decide) (by decide) (by decide)

theorem waiting_wf (w : RxWord) : (waiting w).Wf := small_wf (by decide) (by decide) (by simp)

theorem smallCfg4_wf : (smallCfg 4).Wf := by decide

theorem noCommandOn_of_accepted {s : State} {c : Channel} {i : Instr} (h : accepted s = some i)
    (h1 : ∀ d v, i ≠ .throttle d v) (h2 : ∀ d k, i ≠ .command d k) : noCommandOn c s :=
  ⟨fun v e => h1 c v (Option.some.inj (h.symm.trans e)), fun k e => h2 c k (Option.some.inj (h.symm.trans e))⟩

-- ==== decoding: words from 30_encoding R69 and R70, field by field or from 95_test_vectors ====

/-- R69 row 0x0, all other bits 0. -/
theorem test_word_nop : decode 0x0000000000000000 = .instr .nop ∧ Sys2Proof.encode .nop = 0 ∧
    decodeTableWord 64 0 = some .nop := by decide

/-- V-CRC: `CRC4 0x82C`. -/
theorem test_word_crc4 : decode 0x100000000000082C = .instr (.crc4 0x82C) ∧
    Sys2Proof.encode (.crc4 0x82C) = 0x100000000000082C := by decide

/-- OP 0010, CH 0, RSV 0, A = T in bit 11 above V = 1046, bit by bit. -/
theorem test_word_encode : decode (0b0010#4 ++ 0b00000000#8 ++ 0b00000000000000000000#20 ++
      0b00000000000000000000#20 ++ 0b1#1 ++ 0b10000010110#11) = .instr (.encode 1046 true) ∧
    Sys2Proof.encode (.encode 1046 true) = 0x2000000000000C16 := by decide

/-- V-FDEC: `FRAME_DECODE 0x82C9`. -/
theorem test_word_frameDecode : decode 0x30000000000082C9 = .instr (.frameDecode 0x82C9) ∧
    Sys2Proof.encode (.frameDecode 0x82C9) = 0x30000000000082C9 := by decide

/-- OP 0100, CH 0, RSV 0, S = 11001 in A[4:0], bit by bit. -/
theorem test_word_gcrSymbol : decode (0b0100#4 ++ 0b00000000#8 ++ 0b00000000000000000000#20 ++
      0b000000000000000000000000000#27 ++ 0b11001#5) = .instr (.gcrSymbol 0x19) ∧
    Sys2Proof.encode (.gcrSymbol 0x19) = 0x4000000000000019 := by decide

/-- V-TDEC: the all-ones receive word uses every bit of A. -/
theorem test_word_tlmDecode : decode 0x50000000FFFFFFFF = .instr (.tlmDecode 0xFFFFFFFF) ∧
    Sys2Proof.encode (.tlmDecode 0xFFFFFFFF) = 0x50000000FFFFFFFF := by decide

/-- V-CLS: `TLM_CLASSIFY 0x5F4`. -/
theorem test_word_tlmClassify : decode 0x60000000000005F4 = .instr (.tlmClassify 0x5F4) ∧
    Sys2Proof.encode (.tlmClassify 0x5F4) = 0x60000000000005F4 := by decide

/-- OP 0111, CH = 3, RSV 0, V = 1500 in A[10:0], bit by bit. -/
theorem test_word_throttle : decode (0b0111#4 ++ 0b00000011#8 ++ 0b00000000000000000000#20 ++
      0b000000000000000000000#21 ++ 0b10111011100#11) = .instr (.throttle 3 1500) ∧
    Sys2Proof.encode (.throttle 3 1500) = 0x70300000000005DC := by decide

/-- V-API: `COMMAND 1, 47`, the largest code; channel 255 is a channel field like any other. -/
theorem test_word_command : decode 0x801000000000002F = .instr (.command 1 47) ∧
    Sys2Proof.encode (.command 255 0) = 0x8FF0000000000000 ∧
    decode 0x8FF0000000000000 = .instr (.command 255 0) := by decide

/-- OP 1001 and every other bit 0. -/
theorem test_word_tickStart : decode (0b1001#4 ++ 0b000000000000000000000000000000000000000000000000000000000000#60) =
    .instr .tickStart ∧ Sys2Proof.encode .tickStart = 0x9000000000000000 := by decide

theorem test_word_tickComplete : decode 0xA000000000000000 = .instr .tickComplete ∧
    Sys2Proof.encode .tickComplete = 0xA000000000000000 := by decide

theorem test_word_tick : decode 0xB000000000000000 = .instr .tick ∧
    Sys2Proof.encode .tick = 0xB000000000000000 := by decide

/-- OP 1100, CH = 2, RSV 0, SEL = 110 (fallback) in A[2:0], bit by bit. -/
theorem test_word_readStat : decode (0b1100#4 ++ 0b00000010#8 ++ 0b00000000000000000000#20 ++
      0b00000000000000000000000000000#29 ++ 0b110#3) = .instr (.readStat 2 .fallback) ∧
    Sys2Proof.encode (.readStat 2 .fallback) = 0xC020000000000006 := by decide

/-- SEL by number (R70). -/
theorem test_sel : [0, 1, 2, 3, 4, 5, 6, 7].map (fun k : BitVec 3 => StatSel.ofCode k) =
    [.good, .badGcr, .badCrc, .badType, .timeouts, .frame, .fallback, .repeats] := by decide

/-- V-RSV, and V-API's two reserved COMMAND words. -/
theorem test_reserved :
    [0xD000000000000000, 0xE000000000000000, 0xF000000000000000].map decode =
      [.reserved .opNumber, .reserved .opNumber, .reserved .opNumber] ∧
    [0x0000000000000001, 0x2000000000001000, 0x1010000000000000, 0x7000000100000000, 0xC000000000000008].map decode =
      [.reserved .mustBeZero, .reserved .mustBeZero, .reserved .mustBeZero, .reserved .mustBeZero,
        .reserved .mustBeZero] ∧
    [0x8000000000000030, 0x8010000000000030, 0x8090000000000030].map decode =
      [.reserved .commandCode, .reserved .commandCode, .reserved .commandCode] ∧
    decodeTableWord 64 0xD000000000000000 = none := by decide

/-- The rows of spec/opcode_table.json: mnemonic, match and mask. -/
theorem test_table_rows : Op.all.map (fun o => (o.mnemonic, o.pattern, o.mask)) =
    [("NOP", 0x0000000000000000, 0xFFFFFFFFFFFFFFFF), ("CRC4", 0x1000000000000000, 0xFFFFFFFFFFFFF000),
      ("ENCODE", 0x2000000000000000, 0xFFFFFFFFFFFFF000), ("FRAME_DECODE", 0x3000000000000000, 0xFFFFFFFFFFFF0000),
      ("GCR_SYMBOL", 0x4000000000000000, 0xFFFFFFFFFFFFFFE0), ("TLM_DECODE", 0x5000000000000000, 0xFFFFFFFF00000000),
      ("TLM_CLASSIFY", 0x6000000000000000, 0xFFFFFFFFFFFFF000), ("THROTTLE", 0x7000000000000000, 0xF00FFFFFFFFFF800),
      ("COMMAND", 0x8000000000000000, 0xF00FFFFFFFFFFFC0), ("TICK_START", 0x9000000000000000, 0xFFFFFFFFFFFFFFFF),
      ("TICK_COMPLETE", 0xA000000000000000, 0xFFFFFFFFFFFFFFFF), ("TICK", 0xB000000000000000, 0xFFFFFFFFFFFFFFFF),
      ("READ_STAT", 0xC000000000000000, 0xF00FFFFFFFFFFFF8)] := by decide

/-- No word matches two rows. -/
theorem test_rows_disjoint :
    Op.all.Pairwise (fun a b => a.pattern &&& (a.mask &&& b.mask) ≠ b.pattern &&& (a.mask &&& b.mask)) := by decide

-- ==== well-formedness: one ill-formed term for each check, and the boundary it admits ====

theorem test_wf_command : Instr.wellFormed (.command 0 48) = false ∧ Instr.wellFormed (.command 0 47) = true := by decide

theorem test_wf_beacon : Pseudo.wellFormed (.beacon 0 0) = false ∧ Pseudo.wellFormed (.beacon 0 6) = false ∧
    Pseudo.wellFormed (.beacon 0 5) = true := by decide

theorem test_wf_spinDir : Pseudo.wellFormed (.spinDir 0 6) = false ∧ Pseudo.wellFormed (.spinDir 0 9) = false ∧
    Pseudo.wellFormed (.spinDir 0 7) = true ∧ Pseudo.wellFormed (.spinDir 0 8) = true := by decide

/-- P2 step 2: `EDT_ON 1` = `COMMAND 1, 13`, and its word. -/
theorem test_pseudo : Pseudo.expand (.edtOn 1) = .command 1 13 ∧
    Sys2Proof.encode (Pseudo.expand (.edtOn 1)) = 0x801000000000000D ∧
    Pseudo.expand (.disarm 3) = .throttle 3 0 := by decide

/-- V-API's spelling. -/
theorem test_asm : Instr.asm (.throttle 0 1046) = "THROTTLE 0, 1046" := by decide

-- ==== the pure operations ====

/-- V-CRC. -/
theorem test_crc4 : [0x000, 0x001, 0x0FF, 0xFFF, 0x123, 0x555, 0x82C, 0x60D].map
      (fun p => (after (.crc4 p) idle4).response) =
    [0xF, 0xE, 0xF, 0x0, 0xF, 0xA, 0x9, 0x4].map (fun d => some ⟨.ok, d⟩) := by decide

/-- V-ENC. -/
theorem test_encode : [(0, false), (0, true), (13, true), (47, true), (1046, false), (2047, false), (2047, true)].map
      (fun p => (after (.encode p.1 p.2) idle4).response) =
    [0x000F, 0x001E, 0x01B5, 0x05F5, 0x82C9, 0xFFE1, 0xFFF0].map (fun d => some ⟨.ok, d⟩) := by decide

/-- V-FDEC. -/
theorem test_frameDecode : [0x000F, 0x0000, 0x001F, 0x01B5, 0x82C9, 0x82C1, 0xFFF0, 0xFFFF].map
      (fun f => (after (.frameDecode f) idle4).response) =
    [0x00010000, 0x00000000, 0x00000800, 0x0001080D, 0x00010416, 0x00000416, 0x00010FFF, 0x00000FFF].map
      (fun d => some ⟨.ok, d⟩) := by decide

/-- V-GCR. -/
theorem test_gcrSymbol : [0x00, 0x09, 0x0C, 0x0F, 0x12, 0x19, 0x1A, 0x1B, 0x1D, 0x1E, 0x1F].map
      (fun y => (after (.gcrSymbol y) idle4).response) =
    [0x00, 0x19, 0x00, 0x1F, 0x12, 0x10, 0x18, 0x11, 0x14, 0x1C, 0x00].map (fun d => some ⟨.ok, d⟩) := by decide

/-- V-TDEC. -/
theorem test_tlmDecode : [0x00052951, 0x000CD52D, 0, 1, 0x00152951, 0x00252951, 0xFFFFFFFF, 0x00052952, 0x0008BA2E].map
      (fun w => (after (.tlmDecode w) idle4).response) =
    [0x0000FFF0, 0x00005F41, 0x00010000, 0x00020000, 0x00020000, 0x0000FFF0, 0x00020000, 0x0003FFF1, 0x00030000].map
      (fun d => some ⟨.ok, d⟩) := by decide

/-- V-CLS. -/
theorem test_tlmClassify : [0xFFF, 0x5F4, 0x22A, 0x4CB, 0x60A, 0x000, 0x001, 0xFFE, 0x2FF, 0x4FF].map
      (fun d => (after (.tlmClassify d) idle4).response) =
    [0x00000000, 0x00007530, 0x0C00002A, 0x04000032, 0x40000000, 0x50000000, 0x03938700, 0x00000397, 0x0C0000FF,
      0x0400003F].map (fun d => some ⟨.ok, d⟩) := by decide

/-- A map that assigns CURRENT gives type 2 (41_telemetry R88). -/
theorem test_tlmClassify_current :
    (after (.tlmClassify 0x3FF)
      { idle4 with cfg := { smallCfg 4 with edtTypeMap := Vector.replicate 16 .current } }).response =
    some ⟨.ok, 0x080000FF⟩ := by decide

theorem test_nop : after .nop idle4 = { idle4 with response := some ⟨.ok, 0⟩ } := by decide

-- ==== THROTTLE, COMMAND, READ_STAT (V-API, V-STAT) ====

/-- V-API rows 1 and 3. -/
theorem test_throttle :
    (after (.throttle 0 1046) { idle4 with now := 5000 }).motors[0]? =
      some ⟨0x82C9, 0x82C9, 0, 0, 0, 0, 0, 0⟩ ∧
    (after (.throttle 0 1046) { idle4 with now := 5000 }).lastCmd = 5000 ∧
    after (.throttle 4 1046) { idle4 with now := 10 } =
      { idle4 with now := 10, response := some ⟨.ignored, 0⟩ } := by decide

/-- V-API rows 4, 5 and 7 to 9. -/
theorem test_command :
    (after (.command 2 13) { idle4 with now := 9000 }).motors[2]? = some ⟨0x01B5, 0x000F, 12, 0, 0, 0, 0, 0⟩ ∧
    (after (.command 1 0) { idle4 with now := 7 }).motors[1]? = some ⟨0x001E, 0x000F, 12, 0, 0, 0, 0, 0⟩ ∧
    after (.command 9 13) { idle4 with now := 7 } = { idle4 with now := 7, response := some ⟨.ignored, 0⟩ } ∧
    refusalOf (exec (.command 9 48) idle4) = some (.reservedWord .commandCode) := by decide

/-- V-STAT: frame at reset, an absent channel, and a counter wider than 32 bits read low. -/
theorem test_readStat :
    (after (.readStat 0 .frame) idle4).response = some ⟨.ok, 0x0000000F⟩ ∧
    (after (.readStat 4 .good) idle4).response = some ⟨.ignored, 0⟩ ∧
    (after (.readStat 0 .timeouts) { waiting 0 with motors := [⟨0xF, 0xF, 0, 0, 0, 0, 0, 2 ^ 32 + 5⟩] }).response =
      some ⟨.ok, 5⟩ := by decide

-- ==== the ticks (V-TICK) ====

/-- Rows 1 and 2: the pushed frame with its gap, the pin, and a slot that is not free. -/
theorem test_tickStart :
    (after .tickStart { idle4 with cur := 3 }).engine.txSlot = [⟨0x000F, 10⟩] ∧
    (after .tickStart { idle4 with cur := 3 }).cur = 0 ∧ (after .tickStart { idle4 with cur := 3 }).engPin = 8 ∧
    (after .tickStart { idle4 with cur := 3 }).response = some ⟨.ok, 0x00000100⟩ ∧
    (after .tickStart { idle4 with engine := ⟨[], [], false, []⟩ }).engine.txSlot = [] ∧
    (after .tickStart { idle4 with engine := ⟨[], [], false, []⟩ }).response = some ⟨.ok, 0x00000001⟩ := by decide

/-- Row 12: the last repeat is sent, then the frame reverts. -/
theorem test_tickStart_revert :
    let s := after .tickStart { small 1 .idle [] [] [] with motors := [⟨0x01B5, 0x82C9, 1, 0, 0, 0, 0, 0⟩] }
    s.engine.txSlot = [⟨0x01B5, 10⟩] ∧ s.motors = [⟨0x82C9, 0x82C9, 0, 0, 0, 0, 0, 0⟩] ∧ s.phase = .started := by decide

/-- Rows 4 to 8: the counter, the reading and the data. -/
theorem test_tickComplete :
    [0x00052951, 0x00052952, 0x00000001, 0x000DB99D, 0x0008BA35].map
      (fun w => let s := after .tickComplete (waiting w); (s.motors.map Motor.counters, s.sink, s.response)) =
    [([[1, 0, 0, 0, 0]], [⟨0, .erpm, 0⟩], some ⟨.ok, 0x00000000⟩),
      ([[0, 0, 1, 0, 0]], [], some ⟨.ok, 0x00030000⟩),
      ([[0, 1, 0, 0, 0]], [], some ⟨.ok, 0x00020000⟩),
      ([[0, 0, 0, 1, 0]], [], some ⟨.ok, 0x00040000⟩),
      ([[0, 0, 0, 1, 0]], [], some ⟨.ok, 0x00050000⟩)] := by decide

/-- V-STAT's wrap at CNT_WIDTH = 32, and the wrong phase. -/
theorem test_tickComplete_wrap :
    (after .tickComplete { waiting 0x00052951 with motors := [⟨0xF, 0xF, 0, 2 ^ 32 - 1, 0, 0, 0, 0⟩] }).motors =
      [⟨0xF, 0xF, 0, 0, 0, 0, 0, 0⟩] ∧
    refusalOf (exec .tickComplete idle4) = some .wrongPhase := by decide

/-- Row 3, and P3 at 200000 and 200001: the watchdog fires past the threshold only. -/
theorem test_tick :
    (after .tick { small 1 .idle [] [0] [] with now := 200000 }).response = some ⟨.ok, 0x00010100⟩ ∧
    (after .tick { small 1 .idle [] [0] [] with now := 200001 }).response = some ⟨.ok, 0x00090100⟩ ∧
    (after .tick (small 1 .idle [] [0] [])).motors.map Motor.counters = [[0, 0, 0, 0, 1]] ∧
    refusalOf (exec .tick (waiting 0)) = some .wrongPhase := by decide

/-- P5 step 5: the watchdog overrides a command window on every channel. -/
theorem test_watchdog :
    (after .tick { small 2 .idle [] [0] [] with
      now := 200001
      motors := [⟨0x01B5, 0x82C9, 11, 0, 0, 0, 0, 1⟩, ⟨0x000F, 0x000F, 0, 0, 0, 0, 0, 1⟩] }).motors =
    [⟨0x000F, 0x000F, 0, 0, 0, 0, 0, 1⟩, ⟨0x000F, 0x000F, 0, 0, 0, 0, 0, 2⟩] := by decide

/-- The held tick keeps its start part's effects, and completes once a word is placed (42_channel_mux R99). -/
theorem test_held :
    let s := after .tick (small 1 .idle [] [] [.request 0 9, .engine (.place 0)])
    s.held = some (.tick 0x100) ∧ s.engine.txSlot = [⟨0x000F, 10⟩] ∧
    (stepped s).inputs = [.request 0 9] ∧ (stepped s).engine.rxSlot = [0] ∧
    (stepped (stepped s)).response = some ⟨.ok, 0x00010100⟩ ∧ (stepped (stepped s)).held = none := by decide

/-- The first instruction after reset is the one placed (log 18). -/
theorem test_withFetchWord :
    (stepped (State.withFetchWord idle4 64 0x2000000000000416)).response = some ⟨.ok, 0x82C9⟩ := by decide

/-- A step of one Controller leaves another as it was. -/
theorem test_system : ((systemStep 0 [small 4 .idle [] [] [.request 0 1], idle4]).bind (fun r => match r with
    | .next sys => sys[1]?
    | .fault _ => none
    | .refused _ => none)) = some idle4 := by decide

-- ==== for each statement with hypotheses: states and operands that meet them, each clause, at its boundary ====

/-- A request at the port of a 4-channel Controller, not before the last sampled time. -/
def asking (w : ReqWord) : State := small 4 .idle [] [] [.request w 3]

theorem test_witness_DecodeOfEncode : Instr.wellFormed (.command 255 47) = true ∧ Instr.wellFormed .tick = true := by decide

theorem test_witness_EncodeOfDecode : decode 0x8FF000000000002F = .instr (.command 255 47) := by decide

/-- A reserved word and one that is not. -/
theorem test_witness_ReservedWordsRefused :
    ((asking 0x8000000000000030).held = none ∧ (asking 0x8000000000000030).now ≤ 3 ∧ IsReservedWord 0x8000000000000030) ∧
    ¬ IsReservedWord 0x800000000000002F := by
  unfold IsReservedWord; decide

theorem test_witness_StepPerformsRequest : (asking 0x7030000000000001).held = none ∧
    (asking 0x7030000000000001).inputs = .request 0x7030000000000001 3 :: [] ∧ (asking 0x7030000000000001).now ≤ 3 ∧
    decode 0x7030000000000001 = .instr (.throttle 3 1) := by decide

theorem test_witness_FetchWordPerformed : decode 0x9000000000000000 = .instr .tickStart := by decide

theorem test_witness_SingleBitErrorDetected : frameCrcOk 0x82C9 = true := by decide

/-- A symbol of the table, one outside it, and the default table. -/
theorem test_witness_GcrInverse : (smallCfg 4).Wf ∧ gcrSymbolOf (smallCfg 4) 0 = 0x19 ∧
    (∀ n : Nibble, gcrSymbolOf (smallCfg 4) n ≠ 0x1F) ∧ (smallCfg 4).gcrTable = defaultGcrTable := by decide

theorem test_witness_GcrSymbolResult : idle4.cfg.Wf ∧ gcrSymbolOf idle4.cfg 15 = 0x0F ∧
    (∀ n : Nibble, gcrSymbolOf idle4.cfg n ≠ 0x00) := by decide

theorem test_witness_ReceiveWordBits : (0x00052951 : RxWord) ≠ 0 ∧ (0xFFE52951 : RxWord) ≠ 0 ∧
    (0x00052951 : RxWord).toNat % 2 ^ 21 = (0xFFE52951 : RxWord).toNat % 2 ^ 21 := by decide

/-- V-TDEC: a bad symbol; four good ones with a right CRC (0xFFF0), and with a wrong one (0xFFF1). -/
theorem test_witness_TlmDecodeResult : idle4.cfg.Wf ∧
    (∃ i < 4, ∀ n : Nibble, (gcrSymbolOf idle4.cfg n).toNat ≠ ((1 : RxWord).toNat ^^^ (1 : RxWord).toNat / 2) % 2 ^ 20 / 32 ^ i % 32) ∧
    ((gcrSymbolOf idle4.cfg 0).toNat = 0x7BDF9 % 32 ∧ (gcrSymbolOf idle4.cfg 15).toNat = 0x7BDF9 / 32 % 32 ∧
      (gcrSymbolOf idle4.cfg 15).toNat = 0x7BDF9 / 32 ^ 2 % 32 ∧ (gcrSymbolOf idle4.cfg 15).toNat = 0x7BDF9 / 32 ^ 3 % 32 ∧
      ((0x00052951 : RxWord).toNat ^^^ (0x00052951 : RxWord).toNat / 2) % 2 ^ 20 = 0x7BDF9) ∧
    ((gcrSymbolOf idle4.cfg 1).toNat = 0x7BDFB % 32 ∧
      ((0x00052952 : RxWord).toNat ^^^ (0x00052952 : RxWord).toNat / 2) % 2 ^ 20 = 0x7BDFB) :=
  ⟨by decide, ⟨0, by decide, by decide⟩, by decide, by decide⟩

/-- A decode that fails and one that does not. -/
theorem test_witness_CombinedTelemetry : (after (.tlmDecode 0) idle4).response = some ⟨.ok, 0x00010000⟩ ∧
    (after (.tlmDecode 0x000E7199) idle4).response = some ⟨.ok, 0x000022A5⟩ ∧
    tlmFn idle4.cfg 0x000E7199 = ⟨.ok, .temperature, 42⟩ := by decide

/-- A completion that adds a reading equal to one the sink already has, under the default map. -/
theorem test_witness_CurrentNeedsTheMap : (∀ n : Nibble, edtClassOf (smallCfg 1) n ≠ .current) ∧
    (∃ s t : State, s.cfg = smallCfg 1 ∧ step s = .next t ∧ s.sink = [⟨0, .erpm, 0⟩] ∧
      t.sink = s.sink ++ [⟨0, .erpm, 0⟩]) := by
  refine ⟨by decide,
    { waiting 0x00052951 with inputs := [.request 0xA000000000000000 1], sink := [⟨0, .erpm, 0⟩] }, _, rfl,
    step_stepped (by decide), rfl, by decide⟩

/-- V-TDEC row 1. -/
theorem test_witness_EscEncodingLaw : IsInvDiff (escGcrWord (smallCfg 4) 0xFFF0) 0x52951 ∧ frameCrcOk 0xFFF0 = true ∧
    escGcrWord (smallCfg 4) 0xFFF0 = 0x7BDF9 ∧ (0x52951 : BitVec 20) ≠ 0 ∧ (smallCfg 4).Wf := by
  unfold IsInvDiff; decide

/-- The last channel, and the first that is none. -/
theorem test_witness_ThrottleResult : (3 : BitVec 8).toNat < idle4.cfg.n.toNat ∧
    idle4.motors[(3 : BitVec 8).toNat]? = some Motor.atReset ∧ idle4.cfg.n.toNat ≤ (4 : BitVec 8).toNat := by decide

/-- The last code, and the first reserved one. -/
theorem test_witness_CommandResult : (47 : BitVec 6).toNat ≤ 47 ∧ 47 < (48 : BitVec 6).toNat ∧
    (3 : BitVec 8).toNat < idle4.cfg.n.toNat ∧ idle4.motors[(3 : BitVec 8).toNat]? = some Motor.atReset ∧
    idle4.cfg.n.toNat ≤ (4 : BitVec 8).toNat := by decide

theorem test_witness_ThrottleCommandFrame : (∃ t, exec (.throttle 3 5) idle4 = .next t) ∧
    (∃ t, exec (.command 3 5) idle4 = .next t) := ⟨⟨_, exec_after (by decide)⟩, ⟨_, exec_after (by decide)⟩⟩

/-- One channel, one tick to come, its receive word already there. -/
def oneTick : State := small 1 .idle [] [0] [.request 0xB000000000000000 5]

theorem oneTick_wf : oneTick.Wf := small_wf (by decide) (by decide) (by decide)

theorem quiet_run {s : State} (h : accepted s = some .tick) (hw : watchdogFiredIn s (stepped s) = false) :
    ∀ p ∈ stepsOf s [stepped s], noCommandOn 0 p.1 ∧ watchdogFiredIn p.1 p.2 = false := by
  intro p hp
  simp only [stepsOf, List.mem_singleton] at hp
  subst hp
  exact ⟨noCommandOn_of_accepted h nofun nofun, hw⟩

theorem free_run {s : State} (h : engTxFree s = true) :
    ∀ p ∈ stepsOf s [stepped s], startsTick p.1 = true → p.2.cur = 0 → engTxFree p.1 = true := by
  intro p hp _ _
  simp only [stepsOf, List.mem_singleton] at hp
  subst hp
  exact h

/-- THROTTLE amid a command's repeats, then a tick that serves the channel: the transmit slot free, and full. -/
theorem test_witness_ThrottleCancelsRepeat :
    (∃ (s t : State) (run : List State),
      (0 : Channel).toNat < s.cfg.n.toNat ∧ exec (.throttle 0 1046) s = .next t ∧ IsRun t run ∧
      (∀ p ∈ stepsOf t run, noCommandOn 0 p.1 ∧ watchdogFiredIn p.1 p.2 = false) ∧
      servicesOf 0 t run = [some 0x82C9]) ∧
    ∃ (s t : State) (run : List State),
      (0 : Channel).toNat < s.cfg.n.toNat ∧ exec (.throttle 0 1046) s = .next t ∧ IsRun t run ∧
      (∀ p ∈ stepsOf t run, noCommandOn 0 p.1 ∧ watchdogFiredIn p.1 p.2 = false) ∧
      servicesOf 0 t run = [none] :=
  ⟨⟨after (.command 0 13) oneTick, after (.throttle 0 1046) (after (.command 0 13) oneTick), [stepped _], by decide,
      exec_after (by decide), ⟨step_stepped (by decide), trivial⟩, quiet_run (by decide) (by decide), by decide⟩,
    small 1 .idle [⟨0xF, 10⟩] [0] oneTick.inputs,
    after (.throttle 0 1046) (small 1 .idle [⟨0xF, 10⟩] [0] oneTick.inputs), [stepped _], by decide,
    exec_after (by decide), ⟨step_stepped (by decide), trivial⟩, quiet_run (by decide) (by decide), by decide⟩

/-- The slot free; not reported free; full. -/
theorem test_witness_TickStartResult : idle4.Wf ∧ idle4.phase = .idle ∧
    idle4.motors[servedNext idle4]? = some Motor.atReset ∧ idle4.engine.txReport = true ∧
    idle4.engine.txSlot.length < idle4.cfg.engTxDepth ∧
    ({ idle4 with engine := ⟨[], [], false, []⟩ } : State).engine.txReport = false ∧
    (small 4 .idle [⟨0xF, 10⟩] [] []).Wf ∧ (small 4 .idle [⟨0xF, 10⟩] [] []).cfg.engTxDepth ≤ 1 :=
  ⟨small4_wf, rfl, by decide, rfl, by decide, rfl, small_wf (by decide) (by decide) (by decide), by decide⟩

theorem test_witness_SingleChannelKeepsEngine : oneTick.cfg.n.toNat = 1 ∧ (∃ t, exec .tickStart oneTick = .next t) ∧
    (∃ t, exec .tick oneTick = .next t) ∧ (∃ t, exec .tickComplete (waiting 0) = .next t) :=
  ⟨by decide, ⟨_, exec_after (by decide)⟩, ⟨_, exec_after (by decide)⟩, ⟨_, exec_after (by decide)⟩⟩

/-- No word; a word, the counter at its last value; a held request that finds a word. -/
theorem test_witness_TickCompleteResult : (small 1 .started [] [] []).phase = .started ∧
    (small 1 .started [] [] []).engine.rxSlot = [] ∧ (waiting 0x00052951).engine.rxSlot = 0x00052951 :: [] ∧
    ({ waiting 0 with motors := [⟨0xF, 0xF, 0, 0, 0, 0, 0, 2 ^ 32 - 1⟩] } : State).motors[(waiting 0).cur.toNat]? =
      some ⟨0xF, 0xF, 0, 0, 0, 0, 0, 2 ^ 32 - 1⟩ ∧
    (∃ s : State, s.held = some .complete ∧ s.phase = .started ∧ s.engine.rxSlot ≠ []) :=
  ⟨rfl, rfl, rfl, by decide, { waiting 0x00052951 with held := some .complete }, rfl, rfl, nofun⟩

/-- V-TICK row 4 on a held TICK_COMPLETE: the counter, the reading, the data, and nothing held any more. -/
theorem test_held_tickComplete :
    let s := stepped { waiting 0x00052951 with held := some .complete }
    s.motors.map Motor.counters = [[1, 0, 0, 0, 0]] ∧ s.sink = [⟨0, .erpm, 0⟩] ∧ s.engine.rxSlot = [] ∧
    s.response = some ⟨.ok, 0⟩ ∧ s.held = none := by decide

theorem held_wf {h : Held} {tx : List TxEntry} {rx : List RxWord} {ins : List Input} (ht : tx.length ≤ 1)
    (hr : rx.length ≤ 1) : State.Wf { small 1 .started tx rx ins with held := some h } :=
  let w : (small 1 .started tx rx ins).Wf := small_wf (by decide) ht hr
  ⟨w.cfg, w.motors_length, w.motors, w.cur_lt, w.engEn, w.engPin, w.lastCmd_le, w.engine, fun _ => rfl⟩

theorem test_witness_TickResult : (small 1 .idle [] [] []).Wf ∧ oneTick.Wf ∧ oneTick.phase = .idle ∧
    oneTick.engine.rxSlot ≠ [] ∧ State.Wf { small 1 .started [] [0] [] with held := some (.tick 0x100) } :=
  ⟨small_wf (by decide) (by decide) (by decide), oneTick_wf, rfl, by decide, held_wf (by decide) (by decide)⟩

theorem test_witness_PhaseDiscipline : (waiting 0).phase = .started ∧ idle4.phase = .idle ∧ (waiting 0).Wf ∧
    Instr.wellFormed (.command 0 47) = true := ⟨rfl, rfl, waiting_wf 0, by decide⟩

/-- A held request with a word; one whose engine goes on without ever placing one, a request waiting before its move. -/
theorem test_witness_HeldRequestWaits :
    State.Wf { small 1 .started [] [0] [] with held := some .complete } ∧
    ∃ (s : State) (run : List State), s.held = some .complete ∧ s.engine.rxSlot = [] ∧
      (∀ w, Input.engine (.place w) ∉ s.inputs) ∧ IsRun s run ∧ run ≠ [] ∧ (lastOf s run).engine.wire ≠ [] ∧
      requestsOf s.inputs = [.request 0 1, .request 0 2] := by
  refine ⟨held_wf (by decide) (by decide), ?_⟩
  refine ⟨{ small 1 .started [⟨0xF, 10⟩] [] [.request 0 1, .engine .transmit, .request 0 2] with held := some .complete },
    [stepped _],
    rfl, rfl, fun w hw => ?_, ⟨step_stepped (by decide), trivial⟩, nofun, by decide, by decide⟩
  simp [small] at hw

/-- Two ticks on two channels. -/
theorem test_witness_ServiceOrder : ∃ (s : State) (run : List State), s.Wf ∧ IsRun s run ∧ servedIn s run = [1, 0] ∧
    0 + s.cfg.n.toNat ≤ (servedIn s run).length ∧
    s = { State.construct (smallCfg 2) ⟨[], [0], true, []⟩ 0 with inputs := s.inputs } :=
  let s := small 2 .idle [] [0] [.request 0xB000000000000000 1, .request 0xB000000000000000 2]
  ⟨s, [stepped s, stepped (stepped s)], small_wf (by decide) (by decide) (by decide),
    ⟨step_stepped (by decide), step_stepped (by decide), trivial⟩, by decide, by decide, rfl⟩

theorem test_witness_CommandRepeat : ∃ (s t : State) (run : List State), s.Wf ∧ (0 : Channel).toNat < s.cfg.n.toNat ∧
    s.motors[(0 : Channel).toNat]? = some Motor.atReset ∧ exec (.command 0 13) s = .next t ∧ IsRun t run ∧
    (∀ p ∈ stepsOf t run, noCommandOn 0 p.1 ∧ watchdogFiredIn p.1 p.2 = false) ∧
    (∀ p ∈ stepsOf t run, startsTick p.1 = true → p.2.cur = 0 → engTxFree p.1 = true) ∧
    servicesOf 0 t run = [some 0x01B5] :=
  ⟨oneTick, after (.command 0 13) oneTick, [stepped _], oneTick_wf, by decide, by decide, exec_after (by decide),
    ⟨step_stepped (by decide), trivial⟩, quiet_run (by decide) (by decide), free_run (by decide),
    by decide⟩

/-- A start with the slot full; a run that sends a repeat. -/
theorem test_witness_RepeatsDelayedNotDropped :
    (∃ s t : State, exec .tickStart s = .next t ∧ engTxFree s = false) ∧
    ∃ (s t : State) (run : List State), s.Wf ∧ (0 : Channel).toNat < s.cfg.n.toNat ∧
      s.motors[(0 : Channel).toNat]? = some Motor.atReset ∧ exec (.command 0 13) s = .next t ∧ IsRun t run ∧
      (∀ p ∈ stepsOf t run, noCommandOn 0 p.1 ∧ watchdogFiredIn p.1 p.2 = false) ∧
      framesSentOn 0 t run = [0x01B5] :=
  ⟨⟨small 4 .idle [⟨0xF, 10⟩] [] [], _, exec_after (by decide), by decide⟩,
    oneTick, after (.command 0 13) oneTick, [stepped _], oneTick_wf, by decide, by decide, exec_after (by decide),
    ⟨step_stepped (by decide), trivial⟩, quiet_run (by decide) (by decide), by decide⟩

/-- A tick in which the watchdog does not fire; a step of the last of two instances, one that is refused,
and one that faults (in a state outside the invariant, log 12). -/
theorem test_witness_TickTouchesServedMotor :
    (∃ t, exec .tick (small 2 .idle [] [0] []) = .next t ∧ watchdogFiredIn (small 2 .idle [] [0] []) t = false) ∧
    (∃ s1, [idle4, asking 0x9000000000000000][1]? = some (asking 0x9000000000000000) ∧
      step (asking 0x9000000000000000) = .next s1 ∧ s1.phase = .started) ∧
    (∃ r, step (asking 0xD000000000000000) = .refused r) ∧
    (∃ f, step { asking 0x9000000000000000 with motors := [] } = .fault f) ∧
    ∃ sys, systemStep 0 [idle4, idle4] = some (.next sys) :=
  ⟨⟨_, exec_after (by decide), by decide⟩, ⟨_, rfl, step_stepped (by decide), by decide⟩, ⟨_, rfl⟩, ⟨_, rfl⟩, ⟨_, rfl⟩⟩

/-- Each of the five counters is reached, `good` too. -/
theorem test_witness_EachWordCountedOnce : (waiting 0x00052951).phase = .started ∧
    (waiting 0x00052951).engine.rxSlot ≠ [] ∧ (waiting 0x00052951).motors[(waiting 0).cur.toNat]? = some Motor.atReset ∧
    (∃ t, exec .tickComplete (waiting 0x00052951) = .next t) ∧ (∃ t, exec .tickComplete (waiting 0) = .next t) :=
  ⟨rfl, by decide, by decide, ⟨_, exec_after (by decide)⟩, ⟨_, exec_after (by decide)⟩⟩

/-- Exactly at the threshold, and one past it. -/
theorem test_witness_WatchdogBoundary :
    (∃ t, exec .tickComplete { waiting 0 with now := 200000 } = .next t) ∧
    (∃ t, exec .tickComplete { waiting 0 with now := 200001 } = .next t) ∧
    200000 - (waiting 0).lastCmd ≤ (waiting 0).cfg.idleTimeout.toNat ∧
    (waiting 0).cfg.idleTimeout.toNat < 200001 - (waiting 0).lastCmd :=
  ⟨⟨_, exec_after (by decide)⟩, ⟨_, exec_after (by decide)⟩, by decide, by decide⟩

/-- A late completion, then a tick that sends. -/
theorem test_witness_FailSafe : ∃ (s t : State) (run : List State), s.Wf ∧ step s = .next t ∧ poppedIn s t = true ∧
    t.lastCmd + t.cfg.idleTimeout.toNat < t.now ∧ IsRun t run ∧
    (∀ p ∈ stepsOf t run, ∀ c : Channel, c.toNat < t.cfg.n.toNat → noCommandOn c p.1) ∧
    framesSentOn 0 t run = [0x000F] :=
  let s := { waiting 0 with inputs := [.request 0xA000000000000000 200001, .request 0x9000000000000000 200002] }
  ⟨s, stepped s, [stepped (stepped s)],
    let w := waiting_wf 0
    ⟨w.cfg, w.motors_length, w.motors, w.cur_lt, w.engEn, w.engPin, w.lastCmd_le, w.engine, nofun⟩,
    step_stepped (by decide), by decide, by decide, ⟨step_stepped (by decide), trivial⟩,
    by
      intro p hp c _
      simp only [stepsOf, List.mem_singleton] at hp
      subst hp
      exact noCommandOn_of_accepted (i := .tickStart) (by decide) nofun nofun,
    by decide⟩

theorem test_witness_ReadStatResult : (3 : BitVec 8).toNat < idle4.cfg.n.toNat ∧
    idle4.motors[(3 : BitVec 8).toNat]? = some Motor.atReset ∧ idle4.cfg.n.toNat ≤ (4 : BitVec 8).toNat ∧
    [StatSel.good, .badGcr, .badCrc, .badType, .timeouts, .frame, .fallback, .repeats][7]? = some .repeats := by decide

theorem test_witness_PureOperationsWriteNothing : idle4.Wf := small4_wf

/-- A step that writes `cur` and `phase`; one that writes `last_cmd`; one that ends a tick. -/
theorem test_witness_RegisterWriters :
    (∃ t, step (asking 0x9000000000000000) = .next t ∧ t.cur ≠ (asking 0x9000000000000000).cur ∧
      t.engPin ≠ (asking 0x9000000000000000).engPin ∧ t.phase = .started) ∧
    (∃ t, step (asking 0x7030000000000001) = .next t ∧ t.lastCmd ≠ (asking 0x7030000000000001).lastCmd) ∧
    ∃ t, step { waiting 0 with inputs := [.request 0xA000000000000000 1] } = .next t ∧ t.phase = .idle :=
  ⟨⟨_, step_stepped (by decide), by decide, by decide, by decide⟩, ⟨_, step_stepped (by decide), by decide⟩,
    ⟨_, step_stepped (by decide), by decide⟩⟩

theorem test_witness_StepKeepsWf : (asking 0x9000000000000000).Wf ∧ ∃ t, step (asking 0x9000000000000000) = .next t :=
  ⟨small4_wf, _, step_stepped (by decide)⟩

theorem test_witness_ConstructedIsWf : (smallCfg 256).pinBase = 8 ∧ ¬ (smallCfg 256).Wf ∧
    ({ smallCfg 256 with pinBase := 0 } : Config).Wf ∧ Engine.Wf (smallCfg 4) ⟨[⟨0xF, 10⟩], [0], false, []⟩ :=
  ⟨rfl, by decide, by decide, by decide, by decide⟩

theorem test_witness_FrameCrcKept : ∃ s t : State, step s = .next t ∧ ∀ m ∈ s.motors,
    frameCrc m.frame = crc4 (upper12 m.frame) ∧ frameCrc m.fallback = crc4 (upper12 m.fallback) :=
  ⟨asking 0x8030000000000001, _, step_stepped (by decide), by decide⟩

theorem test_witness_NoRepeatMeansFallback : ∃ s t : State, step s = .next t ∧ 1 ≤ s.cfg.repeatCount.toNat ∧
    ∀ m ∈ s.motors, m.repeats = 0 → m.frame = m.fallback :=
  ⟨asking 0x8030000000000001, _, step_stepped (by decide), by decide, by decide⟩

theorem test_witness_NoStepFaults : (asking 0xB000000000000000).Wf := small4_wf

/-- A request in the right phase; a held one; an engine's turn. -/
theorem test_witness_EveryOtherRequestPerformed :
    ((asking 0x9000000000000000).Wf ∧ ¬ IsReservedWord 0x9000000000000000 ∧ (asking 0x9000000000000000).phase = .idle) ∧
    State.Wf { small 1 .started [] [0] [] with held := some .complete } ∧
    ((small 4 .idle [] [] [.engine .transmit]).Wf ∧
      ∀ w t rest, (small 4 .idle [] [] [.engine .transmit]).inputs ≠ .request w t :: rest) :=
  ⟨⟨small4_wf, by unfold IsReservedWord; decide, rfl⟩, held_wf (by decide) (by decide), small4_wf, nofun⟩

/-- A step that pushes, one that transmits, one that places, one that pops. -/
theorem test_witness_EngineSlotsFifo :
    (stepped (asking 0x9000000000000000)).engine.txSlot = [⟨0xF, 10⟩] ∧
    (stepped (small 4 .idle [⟨0xF, 10⟩] [] [.engine .transmit])).engine.wire = [⟨8, 0, 0xF, 10⟩] ∧
    (stepped (small 4 .idle [] [] [.engine (.place 7)])).engine.rxSlot = [7] ∧
    (stepped { waiting 0 with inputs := [.request 0xA000000000000000 1] }).engine.rxSlot = [] := by decide

/-- A frame to send; nothing to send. -/
theorem test_witness_EngineTransmits : (∃ (s : State) (e : TxEntry), s.held = none ∧
      s.inputs = .engine .transmit :: [] ∧ s.engEn = true ∧ s.engine.txSlot = e :: []) ∧
    ∃ s : State, s.held = none ∧ s.inputs = .engine .transmit :: [] ∧ s.engine.txSlot = [] :=
  ⟨⟨small 4 .idle [⟨0xF, 10⟩] [] [.engine .transmit], _, rfl, rfl, rfl, rfl⟩,
    small 4 .idle [] [] [.engine .transmit], rfl, rfl, rfl⟩

/-- Room for one word, and none. -/
theorem test_witness_EnginePlaces :
    ((small 4 .idle [] [] [.engine (.place 7)]).held = none ∧
      (small 4 .idle [] [] [.engine (.place 7)]).engine.rxSlot.length < (smallCfg 4).engRxDepth) ∧
    (smallCfg 4).engRxDepth ≤ (small 4 .idle [] [5] [.engine (.place 7)]).engine.rxSlot.length := by decide

theorem test_witness_EngineReports : (small 4 .idle [] [] [.engine (.report false)]).held = none ∧
    (small 4 .idle [] [] [.engine (.report false)]).inputs = .engine (.report false) :: [] := by decide

/-- A request waits before the engine's move, another after it. -/
theorem test_witness_EngineMovesWhileHeld : ∃ s : State, s.held = some .complete ∧ s.engine.rxSlot = [] ∧
    requestsOf [.request 0 1] = [.request 0 1] ∧ s.inputs = [.request 0 1] ++ .engine (.place 7) :: [.request 0 2] ∧
    (stepped s).engine.rxSlot = [7] ∧ (stepped s).inputs = [.request 0 1, .request 0 2] :=
  ⟨{ small 1 .started [] [] [.request 0 1, .engine (.place 7), .request 0 2] with held := some .complete },
    rfl, rfl, rfl, rfl, by decide, by decide⟩

theorem test_witness_NothingHappensWithoutInput : (idle4.held = none ∧ idle4.inputs = []) ∧
    ∃ s : State, s.held ≠ none ∧ s.engine.rxSlot = [] ∧ requestsOf s.inputs = s.inputs ∧ s.inputs ≠ [] :=
  ⟨by decide, { small 1 .started [] [] [.request 0 1] with held := some .complete }, by decide, rfl, rfl, by decide⟩

theorem test_witness_ConstructionRefused : ({ smallCfg 4 with repeatCount := 0 } : Config).repeatCount = 0 ∧
    (smallCfg 0).n = 0 ∧ (∃ a b : Nibble, a ≠ b ∧
      gcrSymbolOf { smallCfg 4 with gcrTable := Vector.replicate 16 0x19 } a =
        gcrSymbolOf { smallCfg 4 with gcrTable := Vector.replicate 16 0x19 } b) ∧ (smallCfg 4).Wf :=
  ⟨rfl, rfl, ⟨0, 1, by decide, by decide⟩, by decide⟩

theorem test_witness_BackwardTimeRefused : ∃ s : State, s.held = none ∧ s.inputs = .request 0 3 :: [] ∧ 3 < s.now :=
  ⟨{ asking 0 with now := 4 }, rfl, rfl, by decide⟩

theorem test_witness_IgnoredChangesNothing : idle4.response = none ∧ ∃ t, exec (.throttle 4 0) idle4 = .next t ∧
    t.response = some ⟨.ignored, 0⟩ := ⟨rfl, _, exec_after (by decide), by decide⟩

theorem test_witness_TimeReadersOnly : (∃ t, exec .tickStart idle4 = .next t) ∧
    (∀ c v, Instr.tickStart ≠ .throttle c v) ∧ Instr.tickStart ≠ .tickComplete := ⟨⟨_, exec_after (by decide)⟩, nofun, nofun⟩

/-- A tick held, and one that completes. -/
theorem test_witness_OneResponsePerRequest :
    (∃ t, accepted (asking 0xB000000000000000) = some .tick ∧ step (asking 0xB000000000000000) = .next t ∧ t.held ≠ none) ∧
    (∃ t, accepted oneTick = some .tick ∧ step oneTick = .next t ∧ t.held = none) :=
  ⟨⟨_, by decide, step_stepped (by decide), by decide⟩, ⟨_, by decide, step_stepped (by decide), by decide⟩⟩

end Sys2Proof.Tests
end

section
/-! SUPPORT. The decoder against the rules' own list of reserved words: what a row's mask says of the four fields of a
word, and that a word is reserved (30_encoding R69, R73) exactly when the decoder gives it no operation. -/

namespace Sys2Proof

open Machine

/-- How many low bits of `CH` are operands: all 8, or none (30_encoding R69). -/
def Op.chWidth : Op → Nat
  | .throttle | .command | .readStat => 8
  | .nop | .crc4 | .encode | .frameDecode | .gcrSymbol | .tlmDecode | .tlmClassify => 0
  | .tickStart | .tickComplete | .tick => 0

/-- How many low bits of `A` are operands (30_encoding R69). -/
def Op.aWidth : Op → Nat
  | .nop | .tickStart | .tickComplete | .tick => 0
  | .readStat => 3
  | .gcrSymbol => 5
  | .command => 6
  | .throttle => 11
  | .crc4 | .encode | .tlmClassify => 12
  | .frameDecode => 16
  | .tlmDecode => 32

/-- A row's must-be-zero bits, field by field of 30_encoding R68: in each, those above the operand's. -/
theorem Op.mustBeZero_eq_fields (o : Op) : o.mustBeZero =
    0#4 ++ BitVec.allOnes 8 <<< o.chWidth ++ BitVec.allOnes 20 <<< 0 ++ BitVec.allOnes 32 <<< o.aWidth := by
  cases o <;> decide

theorem word_eq_fields (w : ReqWord) :
    w = opField w ++ chField w ++ w.extractLsb' 32 20 ++ w.extractLsb' 0 32 := by
  unfold opField chField
  rw [BitVec.extractLsb'_append_extractLsb'_eq_extractLsb' (start₂ := 60) (start₁ := 52) rfl,
    BitVec.extractLsb'_append_extractLsb'_eq_extractLsb' (start₂ := 52) (start₁ := 32) rfl,
    BitVec.extractLsb'_append_extractLsb'_eq_extractLsb' (start₂ := 32) (start₁ := 0) rfl, BitVec.extractLsb'_eq_self]

theorem append_eq_zero_iff {m n : Nat} {x : BitVec m} {y : BitVec n} : x ++ y = 0 ↔ x = 0 ∧ y = 0 := by
  refine ⟨fun h => ⟨?_, ?_⟩, fun ⟨hx, hy⟩ => by rw [hx, hy]; exact BitVec.zero_append_zero⟩
  · rw [← BitVec.extractLsb'_append_eq_left (a := x) (b := y), h]; simp
  · rw [← BitVec.extractLsb'_append_eq_right (a := x) (b := y), h]; simp

/-- A field with no 1 at bit `k` or above is a number below `2 ^ k`. -/
theorem and_allOnes_shiftLeft_eq_zero_iff {n : Nat} (x : BitVec n) (k : Nat) :
    x &&& BitVec.allOnes n <<< k = 0 ↔ x.toNat < 2 ^ k := by
  rw [← BitVec.shiftLeft_ushiftRight, BitVec.toNat_eq, BitVec.toNat_shiftLeft, BitVec.toNat_ushiftRight,
    Nat.shiftLeft_eq, Nat.shiftRight_eq_div_pow,
    Nat.mod_eq_of_lt (Nat.lt_of_le_of_lt (Nat.div_mul_le_self ..) x.isLt)]
  simp [Nat.div_eq_zero_iff]

theorem opField_toNat (w : ReqWord) : (opField w).toNat = w.toNat / 2 ^ 60 := by
  simp only [opField, BitVec.extractLsb'_toNat, Nat.shiftRight_eq_div_pow]
  omega

theorem chField_toNat (w : ReqWord) : (chField w).toNat = w.toNat / 2 ^ 52 % 2 ^ 8 := by
  simp only [chField, BitVec.extractLsb'_toNat, Nat.shiftRight_eq_div_pow]

/-- A row's mask leaves no 1 in a word exactly when `CH` and `A` fit the operands and `RSV` is 0. -/
theorem and_mustBeZero_eq_zero_iff (o : Op) (w : ReqWord) : w &&& o.mustBeZero = 0 ↔
    w.toNat / 2 ^ 52 % 2 ^ 8 < 2 ^ o.chWidth ∧ w.toNat / 2 ^ 32 % 2 ^ 20 < 2 ^ 0 ∧ w.toNat % 2 ^ 32 < 2 ^ o.aWidth := by
  have hrsv : (w.extractLsb' 32 20).toNat = w.toNat / 2 ^ 32 % 2 ^ 20 := by
    rw [BitVec.extractLsb'_toNat, Nat.shiftRight_eq_div_pow]
  have ha : (w.extractLsb' 0 32).toNat = w.toNat % 2 ^ 32 := by rw [BitVec.extractLsb'_toNat, Nat.shiftRight_zero]
  rw [← chField_toNat, ← hrsv, ← ha, ← and_allOnes_shiftLeft_eq_zero_iff, ← and_allOnes_shiftLeft_eq_zero_iff,
    ← and_allOnes_shiftLeft_eq_zero_iff, o.mustBeZero_eq_fields]
  conv_lhs => rw [word_eq_fields w]
  rw [BitVec.and_append, BitVec.and_append, BitVec.and_append, append_eq_zero_iff, append_eq_zero_iff,
    append_eq_zero_iff, and_assoc, and_assoc]
  exact and_iff_right BitVec.and_zero

theorem Op.ofCode_eq_none {c : BitVec 4} : Op.ofCode c = none ↔ 13 ≤ c.toNat := by revert c; decide

theorem Op.code_of_ofCode {c : BitVec 4} {o : Op} (h : Op.ofCode c = some o) : o.code = c := by
  have key : ∀ c : BitVec 4, (Op.ofCode c).all (fun o => o.code == c) = true := by decide
  simpa [h] using key c

/-- A word with the operation number of `o` is reserved (30_encoding R69, R73) exactly when the mask of `o`'s row finds a
1 in it, or it is a COMMAND with a code above 47. -/
theorem isReservedWord_iff_of_op {o : Op} {w : ReqWord} (ho : w.toNat / 2 ^ 60 = o.code.toNat) :
    IsReservedWord w ↔ w &&& o.mustBeZero ≠ 0 ∨ (o = .command ∧ 48 ≤ w.toNat % 2 ^ 32) := by
  rw [ne_eq, and_mustBeZero_eq_zero_iff]
  unfold IsReservedWord
  rw [ho]
  cases o <;> simp [Op.code, Op.chWidth, Op.aWidth] <;> omega

theorem Op.wellFormed_withOperands_iff {o : Op} {w : ReqWord} (h : w &&& o.mustBeZero = 0) :
    (o.withOperands w).wellFormed = true ↔ ¬ (o = .command ∧ 48 ≤ w.toNat % 2 ^ 32) := by
  cases o with
  | command =>
    obtain ⟨-, -, ha⟩ := (and_mustBeZero_eq_zero_iff _ _).1 h
    simp only [Op.aWidth] at ha
    simp only [Op.withOperands, Instr.wellFormed, BitVec.extractLsb'_toNat, Nat.shiftRight_zero, decide_eq_true_eq,
      true_and]
    omega
  | _ => simp [Op.withOperands, Instr.wellFormed]

/-- A word with the operation number of `o` is reserved unless `o`'s row mask finds no 1 in it and its operands make a
well-formed operation. -/
theorem not_isReservedWord_iff_of_ofCode {o : Op} {w : ReqWord} (ho : Op.ofCode (opField w) = some o) :
    ¬ IsReservedWord w ↔ w &&& o.mustBeZero = 0 ∧ (o.withOperands w).wellFormed = true := by
  rw [isReservedWord_iff_of_op (by rw [← opField_toNat, Op.code_of_ofCode ho]), not_or, not_not]
  exact and_congr_right fun hm => (Op.wellFormed_withOperands_iff hm).symm

theorem isReservedWord_of_ofCode_none {w : ReqWord} (h : Op.ofCode (opField w) = none) : IsReservedWord w :=
  .inl (opField_toNat w ▸ Op.ofCode_eq_none.1 h)

/-- The decoder gives a word the operation of its `OP` exactly when the word is not reserved (30_encoding R69, R73). -/
theorem decode_eq_instr_iff {w : ReqWord} {i : Instr} : decode w = .instr i ↔
    ¬ IsReservedWord w ∧ ∃ o, Op.ofCode (opField w) = some o ∧ o.withOperands w = i := by
  unfold decode
  cases hop : Op.ofCode (opField w) with
  | none => simp
  | some o =>
    simp only [not_isReservedWord_iff_of_ofCode hop, Option.some.injEq, exists_eq_left']
    split_ifs with hm hk
    · exact ⟨nofun, fun ⟨⟨h0, _⟩, _⟩ => absurd h0 hm⟩
    · simp only [Decoded.instr.injEq, not_not.1 hm, hk, true_and]
    · exact ⟨nofun, fun ⟨⟨_, hwf⟩, _⟩ => absurd hwf hk⟩

/-- The reserved words are those the decoder gives no operation. -/
theorem not_isReservedWord_iff {w : ReqWord} : ¬ IsReservedWord w ↔ ∃ i, decode w = .instr i := by
  refine ⟨fun h => ?_, fun ⟨i, hi⟩ => (decode_eq_instr_iff.1 hi).1⟩
  cases hop : Op.ofCode (opField w) with
  | none => exact absurd (isReservedWord_of_ofCode_none hop) h
  | some o => exact ⟨_, decode_eq_instr_iff.2 ⟨h, o, hop, rfl⟩⟩

@[simp] theorem Op.op_withOperands (o : Op) (w : ReqWord) : (o.withOperands w).op = o := by cases o <;> rfl

theorem opCode_of_decode {w : ReqWord} {i : Instr} (h : decode w = .instr i) : w.toNat / 2 ^ 60 = i.op.code.toNat := by
  obtain ⟨-, o, hop, rfl⟩ := decode_eq_instr_iff.1 h
  rw [← opField_toNat, Op.op_withOperands, Op.code_of_ofCode hop]

theorem wellFormed_of_decode {w : ReqWord} {i : Instr} (h : decode w = .instr i) : i.wellFormed = true := by
  obtain ⟨hres, o, hop, rfl⟩ := decode_eq_instr_iff.1 h
  exact ((not_isReservedWord_iff_of_ofCode hop).1 hres).2

end Sys2Proof
end

section
/-! SUPPORT. When an operation answers a next state: what `State.Wf` gives each channel, and, operation by operation, that
nothing but a reserved code or the wrong phase stops it (00_scope R15, 60_exceptions R112). -/

namespace Sys2Proof.Machine

variable {s : State}

theorem setInputs_wf (h : s.Wf) (xs : List Input) : (setInputs xs s).Wf := { h with }

theorem sample_wf (h : s.Wf) {t : Micros} (ht : s.now ≤ t) : (sample t s).Wf :=
  { h with lastCmd_le := Nat.le_trans h.lastCmd_le ht }

/-- Every channel of the Controller selects a Motor record (10_state R22, R23). -/
theorem State.Wf.motor_exists (h : s.Wf) {c : Channel} (hc : c.toNat < s.cfg.n.toNat) :
    ∃ m, s.motors[c.toNat]? = some m :=
  ⟨_, List.getElem?_eq_getElem (h.motors_length ▸ hc)⟩

/-- The channel a start phase selects is a channel of the Controller (10_state R28). -/
theorem State.Wf.selectNext_cur_lt (h : s.Wf) : (selectNext s).cur.toNat < s.cfg.n.toNat := by
  obtain ⟨⟨hpos, hle⟩, -⟩ := h.cfg
  have hmod := Nat.mod_lt (s.cur.toNat + 1) hpos
  rw [selectNext_cur]
  split
  · rw [nextChannel, BitVec.toNat_ofNat, Nat.mod_eq_of_lt (by omega)]
    exact hmod
  · exact h.cur_lt

theorem onChannel_answers (h : s.Wf) (c : Channel) {k : Motor → Result} (hk : ∀ m, ∃ u, k m = .next u) :
    ∃ u, onChannel c s k = .next u := by
  by_cases hc : c.toNat < s.cfg.n.toNat
  · obtain ⟨m, hm⟩ := h.motor_exists hc
    obtain ⟨u, hu⟩ := hk m
    exact ⟨u, onChannel_eq_next.2 (.inl ⟨hc, m, hm, hu⟩)⟩
  · exact ⟨_, onChannel_eq_next.2 (.inr ⟨hc, rfl⟩)⟩

/-- A completion answers, held or completed, where the served channel has a Motor record. -/
theorem completeOrHold_answers {m : Motor} (hm : s.motors[s.cur.toNat]? = some m) (h : Held) :
    ∃ u, completeOrHold h s = .next u := by
  cases hr : s.engine.rxSlot with
  | nil => exact ⟨_, completeOrHold_eq_next.2 (.inl ⟨hr, rfl⟩)⟩
  | cons raw rest => exact ⟨_, completeOrHold_eq_next.2 (.inr ⟨raw, rest, m, hr, hm, rfl⟩)⟩

/-- A start phase answers, and the channel it then serves has a Motor record. -/
theorem startPhase_answers (h : s.Wf) :
    ∃ s1 b m, startPhase s = some (s1, b) ∧ s1.motors[s1.cur.toNat]? = some m := by
  obtain ⟨m, hm⟩ := h.motor_exists h.selectNext_cur_lt
  by_cases hf : engTxFree s = true
  · refine ⟨_, _, m.countDown, startPhase_eq_some.2 (.inl ⟨hf, rfl, m, hm, rfl⟩), ?_⟩
    obtain ⟨hlt, -⟩ := List.getElem?_eq_some_iff.1 hm
    simp [List.getElem?_set_self hlt]
  · exact ⟨_, _, m, startPhase_eq_some.2 (.inr ⟨by simpa using hf, rfl, rfl⟩), by simpa using hm⟩

/-- Under the invariant an operation answers a next state, but for a reserved code and a tick in the wrong phase
(00_scope R15). -/
theorem exec_answers (h : s.Wf) {i : Instr} (hi : i.wellFormed = true)
    (hstart : i = .tickStart ∨ i = .tick → s.phase = .idle) (hcomplete : i = .tickComplete → s.phase = .started) :
    ∃ u, exec i s = .next u := by
  cases i with
  | nop => exact ⟨_, rfl⟩
  | crc4 p => exact ⟨_, rfl⟩
  | encode v b => exact ⟨_, rfl⟩
  | frameDecode f => exact ⟨_, rfl⟩
  | gcrSymbol y => exact ⟨_, rfl⟩
  | tlmDecode w => exact ⟨_, rfl⟩
  | tlmClassify d => exact ⟨_, rfl⟩
  | throttle c v => exact onChannel_answers h c fun _ => ⟨_, rfl⟩
  | readStat c sel => exact onChannel_answers h c fun _ => ⟨_, rfl⟩
  | command c k =>
    have hk : ¬ 47 < k.toNat := Nat.not_lt.2 (of_decide_eq_true hi)
    simp only [exec, execCommand, if_neg hk]
    exact onChannel_answers h c fun _ => ⟨_, rfl⟩
  | tickStart =>
    obtain ⟨s1, b, -, hp, -⟩ := startPhase_answers h
    exact ⟨_, execTickStart_eq_next.2 ⟨hstart (.inl rfl), s1, b, hp, rfl⟩⟩
  | tickComplete =>
    obtain ⟨m, hm⟩ := h.motor_exists h.cur_lt
    obtain ⟨u, hu⟩ := completeOrHold_answers hm .complete
    exact ⟨u, execTickComplete_eq_next.2 ⟨hcomplete rfl, hu⟩⟩
  | tick =>
    obtain ⟨s1, b, m, hp, hm⟩ := startPhase_answers h
    obtain ⟨u, hu⟩ := completeOrHold_answers hm (.tick (tickStartData b s1.cur))
    exact ⟨u, execTick_eq_next.2 ⟨hstart (.inr rfl), s1, b, hp, hu⟩⟩

theorem step_of_turn_perform {i : Instr} {u : State} (h : turn s = .perform i u) : step s = exec i u := by
  simp only [step, h]

theorem step_answers_of_held (h : s.Wf) (hh : s.held ≠ none) : ∃ u, step s = .next u := by
  obtain ⟨hd, hh⟩ := Option.ne_none_iff_exists'.1 hh
  by_cases hr : s.engine.rxSlot = []
  · exact ⟨_, step_held_waiting hh hr⟩
  · obtain ⟨m, hm⟩ := h.motor_exists h.cur_lt
    rw [step_held_ready hh hr]
    exact completeOrHold_answers hm hd

theorem step_answers_of_no_request (hh : s.held = none) (hi : ∀ w t rest, s.inputs ≠ .request w t :: rest) :
    ∃ u, step s = .next u := by
  cases hs : s.inputs with
  | nil => exact ⟨s, by simp only [step, turn, hh, hs]⟩
  | cons x rest =>
    cases x with
    | request w t => exact absurd hs (hi w t rest)
    | engine m => exact ⟨engineMove m (setInputs rest s), by simp only [step, turn, hh, hs]⟩

end Sys2Proof.Machine
end

section
/-! SUPPORT. Which answers are IGNORED: the three channel operations out of range, and no other (00_scope R15(b), 10_state
R23). -/

namespace Sys2Proof.Machine

variable {s t : State} {d : RespData}

theorem startPhase_response {s1 : State} {b : Bool} (h : startPhase s = some (s1, b)) : s1.response = s.response := by
  obtain ⟨-, -, m, -, rfl⟩ | ⟨-, -, rfl⟩ := startPhase_eq_some.1 h <;> simp

theorem respond_ok_not_ignored (e : RespData) : (respond .ok e s).response ≠ some ⟨.ignored, d⟩ := nofun

theorem answer_not_ignored {e : RespData} (h : answer e s = .next t) : t.response ≠ some ⟨.ignored, d⟩ := by
  rw [answer_eq_next.1 h]
  exact respond_ok_not_ignored e

/-- A completion is held, and leaves the port empty, or answers OK. -/
theorem completeOrHold_not_ignored {hd : Held} (hs : s.response = none) (h : completeOrHold hd s = .next t) :
    t.response ≠ some ⟨.ignored, d⟩ := by
  obtain ⟨-, rfl⟩ | ⟨raw, rest, m, -, -, rfl⟩ := completeOrHold_eq_next.1 h
  · simp [hs]
  · simp [completed_response]

/-- With an empty response port, only THROTTLE, COMMAND and READ_STAT on a channel the Controller does not have are answered
IGNORED, and that answer, with data 0, is their whole effect. -/
theorem exec_ignored {i : Instr} (hs : s.response = none) (h : exec i s = .next t)
    (ht : t.response = some ⟨.ignored, d⟩) : t = respond .ignored 0 s ∧ ∃ c : Channel, s.cfg.n.toNat ≤ c.toNat ∧
      ((∃ v, i = .throttle c v) ∨ (∃ k, i = .command c k) ∨ (∃ sel, i = .readStat c sel)) := by
  cases i with
  | nop => exact absurd ht (answer_not_ignored h)
  | crc4 p => exact absurd ht (answer_not_ignored h)
  | encode v b => exact absurd ht (answer_not_ignored h)
  | frameDecode f => exact absurd ht (answer_not_ignored h)
  | gcrSymbol y => exact absurd ht (answer_not_ignored h)
  | tlmDecode w => exact absurd ht (answer_not_ignored h)
  | tlmClassify x => exact absurd ht (answer_not_ignored h)
  | throttle c v =>
    obtain ⟨-, m, -, rfl⟩ | ⟨hc, rfl⟩ := execThrottle_eq_next.1 h
    · exact absurd ht (respond_ok_not_ignored _)
    · exact ⟨rfl, c, Nat.not_lt.1 hc, .inl ⟨v, rfl⟩⟩
  | command c k =>
    obtain ⟨-, ⟨-, m, -, rfl⟩ | ⟨hc, rfl⟩⟩ := execCommand_eq_next.1 h
    · exact absurd ht (respond_ok_not_ignored _)
    · exact ⟨rfl, c, Nat.not_lt.1 hc, .inr (.inl ⟨k, rfl⟩)⟩
  | readStat c sel =>
    obtain ⟨-, m, -, rfl⟩ | ⟨hc, rfl⟩ := execReadStat_eq_next.1 h
    · exact absurd ht (respond_ok_not_ignored _)
    · exact ⟨rfl, c, Nat.not_lt.1 hc, .inr (.inr ⟨sel, rfl⟩)⟩
  | tickStart =>
    obtain ⟨-, s1, b, -, rfl⟩ := execTickStart_eq_next.1 h
    exact absurd ht (respond_ok_not_ignored _)
  | tickComplete => exact absurd ht (completeOrHold_not_ignored hs (execTickComplete_eq_next.1 h).2)
  | tick =>
    obtain ⟨-, s1, b, hp, hc⟩ := execTick_eq_next.1 h
    exact absurd ht (completeOrHold_not_ignored ((startPhase_response hp).trans hs) hc)

end Sys2Proof.Machine
end

section
/-! SUPPORT. Construction (00_scope R9): what the GCR_TABLE constraint says of its symbols. -/

namespace Sys2Proof.Machine

/-- A table without duplicates gives two nibbles two symbols (30_encoding R63). -/
theorem gcrSymbolOf_injective {c : Config} (h : c.gcrTable.toList.Nodup) : Function.Injective (gcrSymbolOf c) := by
  intro a b hab
  have hlt (x : Nibble) : x.toNat < c.gcrTable.toList.length := by simpa using x.isLt
  have heq : c.gcrTable.toList[a.toNat]'(hlt a) = c.gcrTable.toList[b.toNat]'(hlt b) := by
    rw [Vector.getElem_toList, Vector.getElem_toList]; exact hab
  exact BitVec.eq_of_toNat_eq (h.getElem_inj_iff.1 heq)

/-- Parameters that break one of the three constraints of 00_scope R9 are out of range. -/
theorem not_configWf_of_bad {c : Config}
    (h : c.repeatCount = 0 ∨ c.n = 0 ∨ ∃ a b : Nibble, a ≠ b ∧ gcrSymbolOf c a = gcrSymbolOf c b) : ¬ c.Wf := by
  rintro ⟨⟨hn, -⟩, -, hrep, hnodup, -⟩
  obtain h0 | h0 | ⟨a, b, hne, hab⟩ := h
  · simp [h0] at hrep
  · simp [h0] at hn
  · exact hne (gcrSymbolOf_injective hnodup hab)

end Sys2Proof.Machine
end

section
/-! CERTIFICATE. The statements of 00_scope, settled. -/

namespace Sys2Proof.Machine

/-- Settles O47: a word that is not reserved decodes, and under the invariant its operation answers; a held request and
the engine's turns answer always. -/
theorem everyOtherRequestPerformed : Obligations.EveryOtherRequestPerformed := by
  unfold Obligations.EveryOtherRequestPerformed
  refine ⟨fun s w t rest hwf hheld hin ht hres hstart hcomplete => ?_, fun s hwf hor => ?_⟩
  · obtain ⟨i, hi⟩ := not_isReservedWord_iff.1 hres
    have hop := opCode_of_decode hi
    rw [step_of_turn_perform (turn_eq_perform.2 ⟨hheld, w, t, rest, hin, ht, hi, rfl⟩)]
    refine exec_answers (sample_wf (setInputs_wf hwf rest) ht) (wellFormed_of_decode hi) ?_ ?_
    · rintro (rfl | rfl)
      · exact hstart (.inl hop)
      · exact hstart (.inr hop)
    · rintro rfl
      exact hcomplete hop
  · by_cases hheld : s.held = none
    · exact step_answers_of_no_request hheld (hor.resolve_left (not_not.2 hheld))
    · exact step_answers_of_held hwf hheld

/-- Settles O52: of every operation's answers only the three channel operations out of range give IGNORED, and those
write the response alone. -/
theorem ignoredChangesNothing : Obligations.IgnoredChangesNothing := by
  unfold Obligations.IgnoredChangesNothing
  exact fun s t i d hs h ht => exec_ignored hs h ht

/-- Settles O50: each of the three bad parameters contradicts the ranges `newController` checks. -/
theorem constructionRefused : Obligations.ConstructionRefused := by
  unfold Obligations.ConstructionRefused
  exact ⟨fun cfg eng now0 hbad => if_neg (not_configWf_of_bad hbad), fun cfg eng now0 hwf => if_pos hwf⟩

end Sys2Proof.Machine
end

section
/-! SUPPORT. Invariants: the updates a step is made of, listed once, so that an invariant of the machine is what each of
them keeps; and what an update of a Motor record has to keep to be kept in the whole Motor file. -/

namespace Sys2Proof.Machine

variable {s t : State}

/-- What every update a step is made of keeps: the engine's move and the acceptance of a request, the answers of the
operations, and both parts of a tick. -/
structure StepInvariant (I : State → Prop) : Prop where
  move : ∀ {s : State} (m : EngineMove) (xs : List Input), I s → I (engineMove m (setInputs xs s))
  accept : ∀ {s : State} {τ : Micros} (xs : List Input), s.now ≤ τ → I s → I (sample τ (setInputs xs s))
  answered : ∀ {s : State} (st : Status) (d : RespData), I s → I (respond st d s)
  throttled : ∀ {s : State} {c : Channel} {m : Motor} (v : BitVec 11), s.motors[c.toNat]? = some m → I s →
    I (touchLastCmd (setMotor c (m.throttled (encodeFrame v false)) s))
  commanded : ∀ {s : State} {c : Channel} {m : Motor} (v : BitVec 11), s.motors[c.toNat]? = some m → I s →
    I (touchLastCmd (setMotor c (m.commanded (encodeFrame v true) s.cfg.repeatCount) s))
  started : ∀ {s s1 : State} {b : Bool}, startPhase s = some (s1, b) → I s → I s1
  holds : ∀ {s : State} (h : Held), s.phase = .started → I s → I (setHeld (some h) s)
  completes : ∀ {s : State} {raw : RxWord} {rest : List RxWord} {m : Motor} (h : Held),
    s.engine.rxSlot = raw :: rest → s.motors[s.cur.toNat]? = some m → I s → I (completed h raw m (setRxSlot rest s))

theorem startPhase_phase {s1 : State} {b : Bool} (h : startPhase s = some (s1, b)) : s1.phase = .started := by
  obtain ⟨-, -, m, -, rfl⟩ | ⟨-, -, rfl⟩ := startPhase_eq_some.1 h <;> rfl

namespace StepInvariant

variable {I : State → Prop}

theorem completeOrHold_keeps (hI : StepInvariant I) {h : Held} (hp : s.phase = .started)
    (hc : completeOrHold h s = .next t) (hs : I s) : I t := by
  obtain ⟨-, rfl⟩ | ⟨raw, rest, m, hr, hm, rfl⟩ := completeOrHold_eq_next.1 hc
  · exact hI.holds h hp hs
  · exact hI.completes h hr hm hs

theorem exec_keeps (hI : StepInvariant I) {i : Instr} (h : exec i s = .next t) (hs : I s) : I t := by
  obtain ⟨-, -, -, st, d, rfl⟩ | ⟨c, v, m, -, -, hm, rfl⟩ | ⟨c, k, m, -, -, hm, rfl⟩ | ⟨-, -, s1, b, hp, rfl⟩ |
    ⟨-, hp, hc⟩ | ⟨-, -, s1, b, hp, hc⟩ := exec_cases h
  · exact hI.answered st d hs
  · exact hI.answered _ _ (hI.throttled v hm hs)
  · exact hI.answered _ _ (hI.commanded _ hm hs)
  · exact hI.answered _ _ (hI.started hp hs)
  · exact hI.completeOrHold_keeps hp hc hs
  · exact hI.completeOrHold_keeps (startPhase_phase hp) hc (hI.started hp hs)

/-- What every update keeps, every step keeps. -/
theorem step_keeps (hI : StepInvariant I) (h : step s = .next t) (hs : I s) : I t := by
  obtain ⟨-, rfl | ⟨m, xs, rfl⟩ | ⟨hd, raw, rest, m, -, hr, hm, rfl⟩⟩ | ⟨i, w, τ, rest, -, -, hτ, -, -, hx⟩ :=
    step_cases h
  · exact hs
  · exact hI.move m xs hs
  · exact hI.completes hd hr hm hs
  · exact hI.exec_keeps hx (hI.accept rest hτ hs)

end StepInvariant

theorem startPhase_cfg {s1 : State} {b : Bool} (h : startPhase s = some (s1, b)) : s1.cfg = s.cfg := by
  obtain ⟨-, -, m, -, rfl⟩ | ⟨-, -, rfl⟩ := startPhase_eq_some.1 h <;> simp

/-- No update writes the configuration (10_state R21). -/
theorem cfg_stepInvariant (c : Config) : StepInvariant fun s => s.cfg = c where
  move _ _ h := (engineMove_cfg ..).trans h
  accept _ _ h := h
  answered _ _ h := h
  throttled _ _ h := h
  commanded _ _ h := h
  started hp h := (startPhase_cfg hp).trans h
  holds _ _ h := h
  completes _ _ _ h := (completed_cfg ..).trans h

theorem step_cfg (h : step s = .next t) : t.cfg = s.cfg := (cfg_stepInvariant s.cfg).step_keeps h rfl

/-- What every named update of a Motor record keeps, under the parameters `c`. -/
structure MotorInvariant (c : Config) (P : Motor → Prop) : Prop where
  throttled : ∀ {m : Motor} (v : BitVec 11), P m → P (m.throttled (encodeFrame v false))
  commanded : ∀ {m : Motor} (v : BitVec 11), P m → P (m.commanded (encodeFrame v true) c.repeatCount)
  countDown : ∀ {m : Motor}, P m → P m.countDown
  count : ∀ {m : Motor} (r : Res), P m → P (m.count c.cntWidth r)
  forced : ∀ {m : Motor}, P m → P m.forced

/-- One Motor written leaves every record sound when the one written is. -/
theorem forall_mem_set {P : Motor → Prop} {ms : List Motor} {k : Nat} {m : Motor} (hms : ∀ x ∈ ms, P x) (hm : P m) :
    ∀ x ∈ ms.set k m, P x := fun x hx =>
  (List.mem_or_eq_of_mem_set hx).elim (hms x) fun e => e ▸ hm

theorem startPhase_forall_motors {P : Motor → Prop} (hP : MotorInvariant s.cfg P) {s1 : State} {b : Bool}
    (hp : startPhase s = some (s1, b)) (hs : ∀ m ∈ s.motors, P m) : ∀ m ∈ s1.motors, P m := by
  obtain ⟨-, -, m, hm, rfl⟩ | ⟨-, -, rfl⟩ := startPhase_eq_some.1 hp
  · simpa using forall_mem_set hs (hP.countDown (hs m (List.mem_of_getElem? hm)))
  · simpa using hs

theorem completed_forall_motors {P : Motor → Prop} (hP : MotorInvariant s.cfg P) {h : Held} {raw : RxWord} {m : Motor}
    (hm : P m) (hs : ∀ m ∈ s.motors, P m) : ∀ x ∈ (completed h raw m s).motors, P x := by
  have hset := forall_mem_set (k := s.cur.toNat) hs (hP.count (tlmFn s.cfg raw).res hm)
  rw [completed_motors]
  split
  · exact List.forall_mem_map.2 fun x hx => hP.forced (hset x hx)
  · exact hset

/-- What every update of a Motor record keeps is kept in the whole Motor file, under unchanged parameters. -/
theorem MotorInvariant.stepInvariant {c : Config} {P : Motor → Prop} (hP : MotorInvariant c P) :
    StepInvariant fun s => s.cfg = c ∧ ∀ m ∈ s.motors, P m where
  move m xs h := by simpa using h
  accept _ _ h := h
  answered _ _ h := h
  throttled := fun v hm ⟨hc, hs⟩ => ⟨hc, forall_mem_set hs (hP.throttled v (hs _ (List.mem_of_getElem? hm)))⟩
  commanded := by
    rintro s ch m v hm ⟨rfl, hs⟩
    exact ⟨rfl, forall_mem_set hs (hP.commanded v (hs m (List.mem_of_getElem? hm)))⟩
  started := by
    rintro s s1 b hp ⟨rfl, hs⟩
    exact ⟨startPhase_cfg hp, startPhase_forall_motors hP hp hs⟩
  holds _ _ h := h
  completes := by
    rintro s raw rest m hd - hm ⟨rfl, hs⟩
    exact ⟨by simp, completed_forall_motors (s := setRxSlot rest s) hP (hs m (List.mem_of_getElem? hm)) hs⟩

theorem MotorInvariant.step_keeps {P : Motor → Prop} (hP : MotorInvariant s.cfg P) (h : step s = .next t)
    (hs : ∀ m ∈ s.motors, P m) : ∀ m ∈ t.motors, P m :=
  (hP.stepInvariant.step_keeps h ⟨rfl, hs⟩).2

end Sys2Proof.Machine
end

section
/-! SUPPORT. Each named update keeps the invariant `State.Wf`. -/

namespace Sys2Proof.Machine

variable {s t : State}

theorem respond_wf (h : s.Wf) (st : Status) (d : RespData) : (respond st d s).Wf := { h with }

theorem touchLastCmd_wf (h : s.Wf) : (touchLastCmd s).Wf := { h with lastCmd_le := Nat.le_refl _ }

theorem setMotor_wf (h : s.Wf) (c : Channel) {m : Motor} (hm : m.Wf s.cfg) : (setMotor c m s).Wf :=
  { h with
    motors_length := List.length_set.trans h.motors_length
    motors := forall_mem_set h.motors hm }

theorem forceNeutral_wf (h : s.Wf) : (forceNeutral s).Wf :=
  { h with
    motors_length := (List.length_map _).trans h.motors_length
    motors := List.forall_mem_map.2 fun m hm => Motor.forced_wf (h.motors m hm) }

theorem State.Wf.motor_wf (h : s.Wf) {k : Nat} {m : Motor} (hm : s.motors[k]? = some m) : m.Wf s.cfg :=
  h.motors m (List.mem_of_getElem? hm)

theorem setPhase_started_wf (h : s.Wf) : (setPhase .started s).Wf := { h with held := fun _ => rfl }

theorem setHeld_wf (h : s.Wf) (hp : s.phase = .started) (hd : Held) : (setHeld (some hd) s).Wf :=
  { h with held := fun _ => hp }

/-- The end of a completion: phase IDLE, and nothing held. -/
theorem released_wf (h : s.Wf) : (setHeld none (setPhase .idle s)).Wf := { h with held := nofun }

theorem engPush_wf (h : s.Wf) (hf : engTxFree s = true) (f : Frame) (gap : Nat) : (engPush f gap s).Wf := by
  obtain ⟨-, hroom⟩ : s.engine.txReport = true ∧ s.engine.txSlot.length < s.cfg.engTxDepth := by
    simpa [engTxFree] using hf
  exact { h with engine := ⟨by simpa using hroom, h.engine.rx_le⟩ }

theorem setRxSlot_tail_wf (h : s.Wf) {raw : RxWord} {rest : List RxWord} (hr : s.engine.rxSlot = raw :: rest) :
    (setRxSlot rest s).Wf := by
  have hlen := h.engine.rx_le
  rw [hr, List.length_cons] at hlen
  exact { h with engine := ⟨h.engine.tx_le, Nat.le_of_succ_le hlen⟩ }

/-- The next channel of the round has its pin within the engine's 8 bits (00_scope R9, 10_state R31). -/
theorem pinOf_toNat {c : Config} (hc : c.Wf) {ch : Channel} (h : ch.toNat < c.n.toNat) :
    (pinOf c ch).toNat = c.pinBase.toNat + ch.toNat := by
  obtain ⟨-, hpins, -⟩ := hc
  rw [pinOf, BitVec.toNat_add]
  omega

theorem selectNext_wf (h : s.Wf) : (selectNext s).Wf := by
  have hcur := h.selectNext_cur_lt
  by_cases hn : 1 < s.cfg.n.toNat
  · rw [selectNext_cur, if_pos hn] at hcur
    rw [selectNext, if_pos hn]
    exact { h with cur_lt := hcur, engEn := rfl, engPin := pinOf_toNat h.cfg hcur }
  · rwa [selectNext, if_neg hn]

theorem startPhase_wf (h : s.Wf) {s1 : State} {b : Bool} (hp : startPhase s = some (s1, b)) : s1.Wf := by
  have hnext := selectNext_wf h
  obtain ⟨hf, -, m, hm, rfl⟩ | ⟨-, -, rfl⟩ := startPhase_eq_some.1 hp
  · have hmw : m.Wf (selectNext s).cfg := by simpa using h.motor_wf hm
    exact setPhase_started_wf (setMotor_wf (engPush_wf hnext (by simpa using hf) _ _) _ (Motor.countDown_wf hmw))
  · exact setPhase_started_wf hnext

theorem deliver_wf (h : s.Wf) (r : Tlm) : (deliver r s).Wf := by
  unfold deliver
  split
  · exact { h with }
  · exact h

theorem countWord_wf (h : s.Wf) (raw : RxWord) {m : Motor} (hm : m.Wf s.cfg) : (countWord raw m s).Wf :=
  setMotor_wf (deliver_wf h _) _ (by simpa using Motor.count_wf hm _)

theorem watchdog_wf (h : s.Wf) : (watchdog s).Wf := by
  unfold watchdog
  split
  · exact forceNeutral_wf h
  · exact h

theorem completed_wf (h : s.Wf) (hd : Held) (raw : RxWord) {m : Motor} (hm : m.Wf s.cfg) : (completed hd raw m s).Wf :=
  respond_wf (released_wf (watchdog_wf (countWord_wf h raw hm))) _ _

/-- The engine's slots stay within their depths, whatever move it makes (20_memory R54). -/
theorem engineMove_wf (h : s.Wf) (m : EngineMove) : (engineMove m s).Wf := by
  obtain ⟨htx, hrx⟩ := engineMove_slots (s := s) m
  have hslots : (engineMove m s).engine.Wf s.cfg := by
    constructor
    · have hle := h.engine.tx_le
      obtain he | ⟨e, he⟩ := htx
      · rwa [he]
      · rw [he, List.length_cons] at hle
        exact Nat.le_of_succ_le hle
    · obtain he | ⟨w, hroom, he⟩ := hrx
      · exact he ▸ h.engine.rx_le
      · simpa [he] using hroom
  constructor <;> simp only [engineMove_cfg, engineMove_motors, engineMove_cur, engineMove_lastCmd, engineMove_phase,
    engineMove_engEn, engineMove_engPin, engineMove_now, engineMove_held]
  exacts [h.cfg, h.motors_length, h.motors, h.cur_lt, h.engEn, h.engPin, h.lastCmd_le, hslots, h.held]

theorem wf_stepInvariant : StepInvariant State.Wf where
  move m xs h := engineMove_wf (setInputs_wf h xs) m
  accept xs hτ h := sample_wf (setInputs_wf h xs) hτ
  answered st d h := respond_wf h st d
  throttled v hm h := touchLastCmd_wf (setMotor_wf h _ (Motor.throttled_wf (h.motor_wf hm) v))
  commanded v hm h := touchLastCmd_wf (setMotor_wf h _ (Motor.commanded_wf h.cfg (h.motor_wf hm) v))
  started hp h := startPhase_wf h hp
  holds hd hp h := setHeld_wf h hp hd
  completes hd hr hm h := completed_wf (setRxSlot_tail_wf h hr) hd _ (h.motor_wf hm)

end Sys2Proof.Machine
end

section
/-! SUPPORT. Which operations write `cur`, `eng_pin`, `eng_en`, `last_cmd` and `phase`, and what an accepted request leaves
at the response port (10_state R28 to R31, R34, R36). -/

namespace Sys2Proof.Machine

variable {s t s1 : State} {b : Bool}

theorem accepted_of_turn {i : Instr} {u : State} (h : turn s = .perform i u) : accepted s = some i := by
  simp only [accepted, h]

/-- Where a request is accepted, the step is its operation, the request taken and the time sampled. -/
theorem step_of_accepted {i : Instr} (ha : accepted s = some i) (h : step s = .next t) :
    ∃ τ rest, s.held = none ∧ exec i (sample τ (setInputs rest s)) = .next t := by
  obtain ⟨hT, -⟩ | ⟨j, w, τ, rest, hh, -, -, -, hT, hx⟩ := step_cases h
  · unfold accepted at ha
    split at ha
    · exact absurd ‹_› (hT _ _)
    · cases ha
  · cases (accepted_of_turn hT).symm.trans ha
    exact ⟨τ, rest, hh, hx⟩

theorem startsTick_of_accepted {i : Instr} (ha : accepted s = some i) (hi : i = .tickStart ∨ i = .tick) :
    startsTick s = true := by
  obtain rfl | rfl := hi <;> simp [startsTick, ha]

theorem not_noCommandOn_of_accepted {i : Instr} {c : Channel} (ha : accepted s = some i)
    (hi : (∃ v, i = .throttle c v) ∨ ∃ k, i = .command c k) : ¬ noCommandOn c s := by
  rintro ⟨hv, hk⟩
  obtain ⟨v, rfl⟩ | ⟨k, rfl⟩ := hi
  · exact hv v ha
  · exact hk k ha

/-- A start phase writes neither `last_cmd` nor what is held. -/
theorem startPhase_frame (h : startPhase s = some (s1, b)) : s1.lastCmd = s.lastCmd ∧ s1.held = s.held := by
  obtain ⟨-, -, m, -, rfl⟩ | ⟨-, -, rfl⟩ := startPhase_eq_some.1 h <;> simp

/-- A start phase selects a channel only where there is more than one (42_channel_mux R100). -/
theorem startPhase_selection (h : startPhase s = some (s1, b)) :
    (s1.cur = s.cur ∧ s1.engPin = s.engPin ∧ s1.engEn = s.engEn) ∨ 1 < s.cfg.n.toNat := by
  by_cases hn : 1 < s.cfg.n.toNat
  · exact .inr hn
  · have hsel : selectNext s = s := if_neg hn
    obtain ⟨-, -, m, -, rfl⟩ | ⟨-, -, rfl⟩ := startPhase_eq_some.1 h <;> simp [hsel]

/-- A completion, held or not, selects no channel and does not write `last_cmd`. -/
theorem completeOrHold_frame {hd : Held} (h : completeOrHold hd s = .next t) :
    t.cur = s.cur ∧ t.engPin = s.engPin ∧ t.engEn = s.engEn ∧ t.lastCmd = s.lastCmd := by
  obtain ⟨-, rfl⟩ | ⟨raw, rest, m, -, -, rfl⟩ := completeOrHold_eq_next.1 h <;> simp

/-- A completion that is held keeps the phase; one that is not pops a word and leaves phase IDLE. -/
theorem completeOrHold_phase {hd : Held} (h : completeOrHold hd s = .next t) :
    t.phase = s.phase ∨ (t.phase = .idle ∧ poppedIn s t = true) := by
  obtain ⟨-, rfl⟩ | ⟨raw, rest, m, hr, -, rfl⟩ := completeOrHold_eq_next.1 h
  · exact .inl rfl
  · exact .inr ⟨by simp, by simp [poppedIn, hr]⟩

/-- With an empty response port, a completion is held with no word in the receive slot and the port still empty, or
answers and leaves nothing held. -/
theorem completeOrHold_response {hd : Held} (hs : s.response = none) (h : completeOrHold hd s = .next t) :
    (t.held ≠ none ∧ t.response = none ∧ t.engine.rxSlot = []) ∨ (t.held = none ∧ t.response ≠ none) := by
  obtain ⟨hr, rfl⟩ | ⟨raw, rest, m, -, -, rfl⟩ := completeOrHold_eq_next.1 h
  · exact .inl ⟨nofun, hs, hr⟩
  · exact .inr ⟨completed_held, nofun⟩

/-- `cur`, `eng_pin` and `eng_en` are written by a start phase of a Controller with more than one channel, and by nothing
else. -/
theorem exec_selection {i : Instr} (h : exec i s = .next t) :
    (t.cur = s.cur ∧ t.engPin = s.engPin ∧ t.engEn = s.engEn) ∨
      ((i = .tickStart ∨ i = .tick) ∧ 1 < s.cfg.n.toNat) := by
  obtain ⟨-, -, -, st, d, rfl⟩ | ⟨c, v, m, rfl, -, -, rfl⟩ | ⟨c, k, m, rfl, -, -, rfl⟩ | ⟨rfl, -, s1, b, hp, rfl⟩ |
    ⟨-, -, hc⟩ | ⟨rfl, -, s1, b, hp, hc⟩ := exec_cases h
  · exact .inl ⟨rfl, rfl, rfl⟩
  · exact .inl ⟨rfl, rfl, rfl⟩
  · exact .inl ⟨rfl, rfl, rfl⟩
  · exact (startPhase_selection hp).imp_right fun hn => ⟨.inl rfl, hn⟩
  · obtain ⟨hcur, hpin, hen, -⟩ := completeOrHold_frame hc
    exact .inl ⟨hcur, hpin, hen⟩
  · obtain ⟨hcur, hpin, hen, -⟩ := completeOrHold_frame hc
    rw [hcur, hpin, hen]
    exact (startPhase_selection hp).imp_right fun hn => ⟨.inr rfl, hn⟩

/-- `last_cmd` is written by THROTTLE and COMMAND on a channel of the Controller, with the time, and by nothing else. -/
theorem exec_lastCmd {i : Instr} (h : exec i s = .next t) :
    t.lastCmd = s.lastCmd ∨ (t.lastCmd = t.now ∧ ∃ c : Channel, c.toNat < s.cfg.n.toNat ∧
      ((∃ v, i = .throttle c v) ∨ ∃ k, i = .command c k)) := by
  obtain ⟨-, -, -, st, d, rfl⟩ | ⟨c, v, m, rfl, hc, -, rfl⟩ | ⟨c, k, m, rfl, hc, -, rfl⟩ | ⟨-, -, s1, b, hp, rfl⟩ |
    ⟨-, -, hc⟩ | ⟨-, -, s1, b, hp, hc⟩ := exec_cases h
  · exact .inl rfl
  · exact .inr ⟨rfl, c, hc, .inl ⟨v, rfl⟩⟩
  · exact .inr ⟨rfl, c, hc, .inr ⟨k, rfl⟩⟩
  · obtain ⟨hl, -⟩ := startPhase_frame hp
    exact .inl hl
  · obtain ⟨-, -, -, hl⟩ := completeOrHold_frame hc
    exact .inl hl
  · obtain ⟨hl, -⟩ := startPhase_frame hp
    obtain ⟨-, -, -, hl'⟩ := completeOrHold_frame hc
    exact .inl (hl'.trans hl)

/-- `phase` becomes STARTED by a start phase, and IDLE by a completion that pops a word, and in no other way. -/
theorem exec_phase {i : Instr} (h : exec i s = .next t) :
    t.phase = s.phase ∨ (t.phase = .started ∧ (i = .tickStart ∨ i = .tick)) ∨
      (t.phase = .idle ∧ poppedIn s t = true) := by
  obtain ⟨-, -, -, st, d, rfl⟩ | ⟨c, v, m, -, -, -, rfl⟩ | ⟨c, k, m, -, -, -, rfl⟩ | ⟨rfl, -, s1, b, hp, rfl⟩ |
    ⟨-, -, hc⟩ | ⟨rfl, hidle, s1, b, hp, hc⟩ := exec_cases h
  · exact .inl rfl
  · exact .inl rfl
  · exact .inl rfl
  · exact .inr (.inl ⟨startPhase_phase (s1 := s1) hp, .inl rfl⟩)
  · exact (completeOrHold_phase hc).imp_right .inr
  · obtain hkept | ⟨hdone, -⟩ := completeOrHold_phase hc
    · exact .inr (.inl ⟨hkept.trans (startPhase_phase hp), .inr rfl⟩)
    · exact .inl (hdone.trans hidle.symm)

/-- With nothing held and an empty response port, an operation answers, or it is a completion and held. -/
theorem exec_response {i : Instr} (hh : s.held = none) (hs : s.response = none) (h : exec i s = .next t) :
    (t.held ≠ none ∧ t.response = none ∧ (i = .tickComplete ∨ i = .tick) ∧ t.engine.rxSlot = []) ∨
      (t.held = none ∧ t.response ≠ none) := by
  obtain ⟨-, -, -, st, d, rfl⟩ | ⟨c, v, m, -, -, -, rfl⟩ | ⟨c, k, m, -, -, -, rfl⟩ | ⟨-, -, s1, b, hp, rfl⟩ |
    ⟨rfl, -, hc⟩ | ⟨rfl, -, s1, b, hp, hc⟩ := exec_cases h
  · exact .inr ⟨hh, nofun⟩
  · exact .inr ⟨hh, nofun⟩
  · exact .inr ⟨hh, nofun⟩
  · obtain ⟨-, hheld⟩ := startPhase_frame hp
    exact .inr ⟨hheld.trans hh, nofun⟩
  · exact (completeOrHold_response hs hc).imp_left fun ⟨hheld, hresp, hrx⟩ => ⟨hheld, hresp, .inl rfl, hrx⟩
  · exact (completeOrHold_response ((startPhase_response hp).trans hs) hc).imp_left
      fun ⟨hheld, hresp, hrx⟩ => ⟨hheld, hresp, .inr rfl, hrx⟩

theorem step_selection (h : step s = .next t) :
    (t.cur = s.cur ∧ t.engPin = s.engPin ∧ t.engEn = s.engEn) ∨ (startsTick s = true ∧ 1 < s.cfg.n.toNat) := by
  obtain ⟨-, rfl | ⟨m, xs, rfl⟩ | ⟨hd, raw, rest, m, -, -, -, rfl⟩⟩ | ⟨i, w, τ, rest, -, -, -, -, hT, hx⟩ := step_cases h
  · exact .inl ⟨rfl, rfl, rfl⟩
  · exact .inl (by simp)
  · exact .inl (by simp)
  · exact (exec_selection hx).imp_right fun ⟨hi, hn⟩ => ⟨startsTick_of_accepted (accepted_of_turn hT) hi, hn⟩

theorem step_lastCmd (h : step s = .next t) :
    t.lastCmd = s.lastCmd ∨ (t.lastCmd = t.now ∧ ∃ c : Channel, c.toNat < s.cfg.n.toNat ∧ ¬ noCommandOn c s) := by
  obtain ⟨-, rfl | ⟨m, xs, rfl⟩ | ⟨hd, raw, rest, m, -, -, -, rfl⟩⟩ | ⟨i, w, τ, rest, -, -, -, -, hT, hx⟩ := step_cases h
  · exact .inl rfl
  · exact .inl (by simp)
  · exact .inl (by simp)
  · exact (exec_lastCmd hx).imp_right fun ⟨hnow, c, hc, hi⟩ =>
      ⟨hnow, c, hc, not_noCommandOn_of_accepted (accepted_of_turn hT) hi⟩

theorem step_phase (h : step s = .next t) :
    t.phase = s.phase ∨ (t.phase = .started ∧ startsTick s = true) ∨ (t.phase = .idle ∧ poppedIn s t = true) := by
  obtain ⟨-, rfl | ⟨m, xs, rfl⟩ | ⟨hd, raw, rest, m, -, hr, -, rfl⟩⟩ | ⟨i, w, τ, rest, -, -, -, -, hT, hx⟩ := step_cases h
  · exact .inl rfl
  · exact .inl (by simp)
  · exact .inr (.inr ⟨by simp, by simp [poppedIn, hr]⟩)
  · exact (exec_phase hx).imp_right (.imp_left fun ⟨hp, hi⟩ => ⟨hp, startsTick_of_accepted (accepted_of_turn hT) hi⟩)

end Sys2Proof.Machine
end

section
/-! SUPPORT. Updates in a state that differs only in `now` (10_state R35). -/

namespace Sys2Proof.Machine

variable {s t s1 : State} {b : Bool}

theorem selectNext_withNow (s : State) (n : Micros) :
    selectNext { s with now := n } = { selectNext s with now := n } := by
  unfold selectNext
  split <;> rfl

/-- A start phase does not read the time. -/
theorem startPhase_withNow (h : startPhase s = some (s1, b)) (n : Micros) :
    startPhase { s with now := n } = some ({ s1 with now := n }, b) := by
  rw [startPhase_eq_some, selectNext_withNow]
  obtain ⟨hf, hb, m, hm, rfl⟩ | ⟨hf, hb, rfl⟩ := startPhase_eq_some.1 h
  · exact .inl ⟨hf, hb, m, hm, rfl⟩
  · exact .inr ⟨hf, hb, rfl⟩

theorem answer_withNow {d : RespData} (h : answer d s = .next t) (n : Micros) :
    answer d { s with now := n } = .next { t with now := n } := by
  rw [answer_eq_next.1 h]
  rfl

/-- An operation that is none of the four readers of the time does the same whatever the time is. -/
theorem exec_withNow {i : Instr} (hthrottle : ∀ c v, i ≠ .throttle c v) (hcommand : ∀ c k, i ≠ .command c k)
    (hcomplete : i ≠ .tickComplete) (htick : i ≠ .tick) (h : exec i s = .next t) (n : Micros) :
    exec i { s with now := n } = .next { t with now := n } := by
  cases i with
  | nop => exact answer_withNow h n
  | crc4 p => exact answer_withNow h n
  | encode v b => exact answer_withNow h n
  | frameDecode f => exact answer_withNow h n
  | gcrSymbol y => exact answer_withNow h n
  | tlmDecode w => exact answer_withNow h n
  | tlmClassify d => exact answer_withNow h n
  | throttle c v => exact absurd rfl (hthrottle c v)
  | command c k => exact absurd rfl (hcommand c k)
  | tickStart =>
    obtain ⟨hidle, s1, b, hp, rfl⟩ := execTickStart_eq_next.1 h
    exact execTickStart_eq_next.2 ⟨hidle, _, b, startPhase_withNow hp n, rfl⟩
  | tickComplete => exact absurd rfl hcomplete
  | tick => exact absurd rfl htick
  | readStat c sel =>
    obtain ⟨hc, m, hm, rfl⟩ | ⟨hc, rfl⟩ := execReadStat_eq_next.1 h
    · exact execReadStat_eq_next.2 (.inl ⟨hc, m, hm, rfl⟩)
    · exact execReadStat_eq_next.2 (.inr ⟨hc, rfl⟩)

end Sys2Proof.Machine
end

section
/-! SUPPORT. What the named updates of a Motor record do to its frames, and the two facts about them that every update
keeps (10_state R24, R25). -/

namespace Sys2Proof.Machine

variable {m : Motor}

@[simp] theorem Motor.count_frame (w : Nat) (r : Res) : (m.count w r).frame = m.frame := by cases r <;> rfl
@[simp] theorem Motor.count_fallback (w : Nat) (r : Res) : (m.count w r).fallback = m.fallback := by cases r <;> rfl
@[simp] theorem Motor.count_repeats (w : Nat) (r : Res) : (m.count w r).repeats = m.repeats := by cases r <;> rfl

/-- The countdown leaves a Motor that owes nothing, reverts at the last repeat, and else owes one less
(42_channel_mux R96). -/
theorem Motor.countDown_cases (m : Motor) :
    m.countDown = m ∨ m.countDown = { m with repeats := 0, frame := m.fallback } ∨
      (m.repeats - 1 ≠ 0 ∧ m.countDown = { m with repeats := m.repeats - 1 }) := by
  unfold Motor.countDown
  split_ifs with h0 h1
  · exact .inl rfl
  · exact .inr (.inl rfl)
  · exact .inr (.inr ⟨fun h => h1 (sub_eq_zero.1 h), rfl⟩)

/-- Frame and fallback both with the CRC of their upper 12 bits (10_state R24). -/
def Motor.FramesValid (m : Motor) : Prop :=
  frameCrc m.frame = crc4 (upper12 m.frame) ∧ frameCrc m.fallback = crc4 (upper12 m.fallback)

/-- Frame and fallback equal where no repeat is owed (10_state R25). -/
def Motor.RevertsToFallback (m : Motor) : Prop := m.repeats = 0 → m.frame = m.fallback

theorem frameCrc_encodeFrame (v : BitVec 11) (b : Bool) :
    frameCrc (encodeFrame v b) = crc4 (upper12 (encodeFrame v b)) :=
  eq_of_beq (frameCrcOk_encodeFrame v b)

theorem framesValid_motorInvariant (c : Config) : MotorInvariant c Motor.FramesValid where
  throttled v _ := ⟨frameCrc_encodeFrame v false, frameCrc_encodeFrame v false⟩
  commanded v := fun ⟨_, hfallback⟩ => ⟨frameCrc_encodeFrame v true, hfallback⟩
  countDown {m} h := by
    obtain ⟨hframe, hfallback⟩ := h
    obtain he | he | ⟨-, he⟩ := m.countDown_cases <;> rw [he]
    · exact ⟨hframe, hfallback⟩
    · exact ⟨hfallback, hfallback⟩
    · exact ⟨hframe, hfallback⟩
  count r h := by simpa [Motor.FramesValid] using h
  forced _ := ⟨frameCrc_encodeFrame 0 false, frameCrc_encodeFrame 0 false⟩

/-- COMMAND leaves a repeat owed because REPEAT_COUNT is not 0 (00_scope R9). -/
theorem revertsToFallback_motorInvariant {c : Config} (hc : 1 ≤ c.repeatCount.toNat) :
    MotorInvariant c Motor.RevertsToFallback where
  throttled _ _ := fun _ => rfl
  commanded _ _ := fun h0 => by
    have h0 : c.repeatCount = 0 := h0
    simp [h0] at hc
  countDown {m} h := by
    obtain he | he | ⟨hne, he⟩ := m.countDown_cases <;> rw [he]
    · exact h
    · exact fun _ => rfl
    · exact fun h0 => absurd h0 hne
  count r h := by simpa [Motor.RevertsToFallback] using h
  forced _ := fun _ => rfl

/-- What a Motor record after reset meets, every record of a constructed Controller meets. -/
theorem construct_forall_motors {P : Motor → Prop} (h : P Motor.atReset) (cfg : Config) (eng : Engine) (now0 : Micros) :
    ∀ m ∈ (State.construct cfg eng now0).motors, P m := fun _ hm => List.eq_of_mem_replicate hm ▸ h

end Sys2Proof.Machine
end

section
/-! CERTIFICATE. The statements of 10_state, settled. -/

namespace Sys2Proof.Machine

/-- Settles O41: every update a step is made of keeps the invariant, the start phase because the next channel of the round
is a channel and its pin fits, the push because the transmit slot was free. -/
theorem stepKeepsWf : Obligations.StepKeepsWf := by
  unfold Obligations.StepKeepsWf
  exact fun s t hwf h => wf_stepInvariant.step_keeps h hwf

/-- Settles O40, register by register: each is unchanged, or its one kind of writer was accepted. -/
theorem registerWriters : Obligations.RegisterWriters := by
  unfold Obligations.RegisterWriters
  refine fun s t h => ⟨step_cfg h, fun hne => ?_, fun hne => ?_, fun hne => ?_⟩
  · refine (step_selection h).resolve_left fun ⟨hcur, hpin, hen⟩ => ?_
    exact hne.elim (· hcur) (Or.elim · (· hpin) (· hen))
  · exact (step_lastCmd h).resolve_left hne
  · exact (step_phase h).resolve_left hne

/-- Settles O44: every update of a Motor record writes encoded frames or moves the fallback into the frame. -/
theorem frameCrcKept : Obligations.FrameCrcKept := by
  unfold Obligations.FrameCrcKept
  exact ⟨construct_forall_motors ⟨frameCrc_encodeFrame 0 false, frameCrc_encodeFrame 0 false⟩,
    fun s t h hs => (framesValid_motorInvariant s.cfg).step_keeps h hs⟩

/-- Settles O45: a repeat that ends reverts the frame, and COMMAND arms at least one. -/
theorem noRepeatMeansFallback : Obligations.NoRepeatMeansFallback := by
  unfold Obligations.NoRepeatMeansFallback
  exact ⟨construct_forall_motors fun _ => rfl,
    fun s t h hcount hs => (revertsToFallback_motorInvariant hcount).step_keeps h hs⟩

/-- Settles O53: of the operations left, the start phase and READ_STAT read registers, and none of them the time. -/
theorem timeReadersOnly : Obligations.TimeReadersOnly := by
  unfold Obligations.TimeReadersOnly
  exact fun s t i n hthrottle hcommand hcomplete htick h => exec_withNow hthrottle hcommand hcomplete htick h n

/-- Settles O54: a request is accepted with nothing held and empties the port, and then its operation answers or is held. -/
theorem oneResponsePerRequest : Obligations.OneResponsePerRequest := by
  unfold Obligations.OneResponsePerRequest
  intro s t i ha h
  obtain ⟨τ, rest, hh, hx⟩ := step_of_accepted ha h
  exact exec_response (s := sample τ (setInputs rest s)) hh rfl hx

/-- Settles O5: the turn is the request's, and acceptance takes it from the inputs, samples its time and empties the port. -/
theorem stepPerformsRequest : Obligations.StepPerformsRequest := by
  unfold Obligations.StepPerformsRequest
  exact fun s w t rest i hh hin ht hd =>
    step_of_turn_perform (turn_eq_perform.2 ⟨hh, w, t, rest, hin, ht, hd, rfl⟩)

/-- Settles O6: the placed word is the whole word, with the time last sampled, so its acceptance leaves `now` and the
inputs as they were. -/
theorem fetchWordPerformed : Obligations.FetchWordPerformed := by
  unfold Obligations.FetchWordPerformed
  intro s w i hd
  have hw : BitVec.ofNat 64 (w.toNat % 2 ^ 64) = w := by
    rw [Nat.mod_eq_of_lt w.isLt, BitVec.ofNat_toNat, BitVec.setWidth_eq]
  rw [State.withFetchWord, hw]
  exact step_of_turn_perform (turn_eq_perform.2 ⟨rfl, w, s.now, s.inputs, rfl, Nat.le_refl _, hd, rfl⟩)

end Sys2Proof.Machine
end

section
/-! SUPPORT. The operations of 20_memory R52, in a state that differs only in the response: they do not read it. -/

namespace Sys2Proof.Machine

variable {s : State} {i : Instr}

/-- R52's list is every operation but the five that write more than the response. -/
theorem isPure_of_ne (hthrottle : ∀ c v, i ≠ .throttle c v) (hcommand : ∀ c k, i ≠ .command c k)
    (hstart : i ≠ .tickStart) (hcomplete : i ≠ .tickComplete) (htick : i ≠ .tick) : isPure i = true := by
  cases i with
  | throttle c v => exact absurd rfl (hthrottle c v)
  | command c k => exact absurd rfl (hcommand c k)
  | tickStart => exact absurd rfl hstart
  | tickComplete => exact absurd rfl hcomplete
  | tick => exact absurd rfl htick
  | _ => rfl

/-- Under the invariant a pure operation answers, and the response is its whole effect. -/
theorem exec_pure_answers (h : s.Wf) (hi : isPure i = true) : ∃ st d, exec i s = .next (respond st d s) := by
  have hwell : i.wellFormed = true := by
    cases i with
    | command c k => cases hi
    | _ => rfl
  have hstart : i = .tickStart ∨ i = .tick → s.phase = .idle := by rintro (rfl | rfl) <;> cases hi
  have hcomplete : i = .tickComplete → s.phase = .started := by rintro rfl; cases hi
  obtain ⟨u, hu⟩ := exec_answers h hwell hstart hcomplete
  obtain ⟨st, d, rfl⟩ := exec_pure hi hu
  exact ⟨st, d, hu⟩

/-- A pure operation does not read the response, and overwrites it. -/
theorem exec_pure_respond (hi : isPure i = true) (st : Status) (d : RespData) :
    exec i (respond st d s) = exec i s := by
  cases i with
  | throttle c v | command c k | tickStart | tickComplete | tick => cases hi
  | _ => rfl

end Sys2Proof.Machine
end

section
/-! SUPPORT. The engine's slots as queues (20_memory R54): which updates add at their ends, and which take their oldest. -/

namespace Sys2Proof.Machine

variable {s t s1 : State} {b : Bool}

/-- The frames the engine was given and still has or has sent, oldest first: the wire, then the transmit slot. -/
def Engine.frames (e : Engine) : List TxEntry := e.wire.map (fun x => ⟨x.frame, x.gap⟩) ++ e.txSlot

theorem frames_engPush (f : Frame) (gap : Nat) (s : State) :
    (engPush f gap s).engine.frames = s.engine.frames ++ [⟨f, gap⟩] := (List.append_assoc ..).symm

/-- An engine move puts the oldest frame of the slot on the wire or no frame at all: the queue stays as it is. -/
theorem frames_engineMove (m : EngineMove) (s : State) : (engineMove m s).engine.frames = s.engine.frames := by
  cases m with
  | report b => rfl
  | place w =>
    simp only [engineMove, enginePlace]
    split <;> rfl
  | transmit =>
    simp only [engineMove, engineTransmit]
    split
    · rfl
    next e rest htx =>
      split
      · simp [Engine.frames, htx]
      · rfl

/-- A start phase pushes one frame, or none. -/
theorem startPhase_frames (h : startPhase s = some (s1, b)) :
    s1.engine.frames = s.engine.frames ∨ ∃ x, s1.engine.frames = s.engine.frames ++ [x] := by
  obtain ⟨-, -, m, -, rfl⟩ | ⟨-, -, rfl⟩ := startPhase_eq_some.1 h
  · refine .inr ⟨⟨m.frame, gapOfSpeed (selectNext s).cfg⟩, ?_⟩
    rw [setPhase_engine, sendFrame, setMotor_engine, frames_engPush, selectNext_engine]
  · exact .inl (by simp)

theorem startPhase_rxSlot (h : startPhase s = some (s1, b)) : s1.engine.rxSlot = s.engine.rxSlot := by
  obtain ⟨-, -, m, -, rfl⟩ | ⟨-, -, rfl⟩ := startPhase_eq_some.1 h <;> simp

/-- A completion does nothing to the engine but take the oldest word of its receive slot. -/
theorem completeOrHold_engine {hd : Held} (h : completeOrHold hd s = .next t) :
    t.engine = s.engine ∨ ∃ w rest, s.engine.rxSlot = w :: rest ∧ t.engine = { s.engine with rxSlot := rest } := by
  obtain ⟨-, rfl⟩ | ⟨raw, rest, m, hr, -, rfl⟩ := completeOrHold_eq_next.1 h
  · exact .inl rfl
  · exact .inr ⟨raw, rest, hr, by simp⟩

theorem completeOrHold_frames {hd : Held} (h : completeOrHold hd s = .next t) : t.engine.frames = s.engine.frames := by
  obtain he | ⟨w, rest, -, he⟩ := completeOrHold_engine h
  · rw [he]
  · rw [he, Engine.frames, Engine.frames]

theorem completeOrHold_rxSlot {hd : Held} (h : completeOrHold hd s = .next t) :
    t.engine.rxSlot = s.engine.rxSlot ∨ ∃ w, s.engine.rxSlot = w :: t.engine.rxSlot := by
  obtain he | ⟨w, rest, hr, he⟩ := completeOrHold_engine h <;> rw [he]
  · exact .inl rfl
  · exact .inr ⟨w, hr⟩

/-- The only operations that give the engine a frame are those with a start phase. -/
theorem exec_frames {i : Instr} (h : exec i s = .next t) :
    t.engine.frames = s.engine.frames ∨ ∃ x, t.engine.frames = s.engine.frames ++ [x] := by
  obtain ⟨-, -, -, st, d, rfl⟩ | ⟨c, v, m, -, -, -, rfl⟩ | ⟨c, k, m, -, -, -, rfl⟩ | ⟨-, -, s1, b, hp, rfl⟩ |
    ⟨-, -, hc⟩ | ⟨-, -, s1, b, hp, hc⟩ := exec_cases h
  · exact .inl rfl
  · exact .inl rfl
  · exact .inl rfl
  · exact startPhase_frames (s1 := s1) hp
  · exact .inl (completeOrHold_frames hc)
  · rw [completeOrHold_frames hc]
    exact startPhase_frames hp

/-- The only operations that take a receive word are those with a completion. -/
theorem exec_rxSlot {i : Instr} (h : exec i s = .next t) :
    t.engine.rxSlot = s.engine.rxSlot ∨ ∃ w, s.engine.rxSlot = w :: t.engine.rxSlot := by
  obtain ⟨-, -, -, st, d, rfl⟩ | ⟨c, v, m, -, -, -, rfl⟩ | ⟨c, k, m, -, -, -, rfl⟩ | ⟨-, -, s1, b, hp, rfl⟩ |
    ⟨-, -, hc⟩ | ⟨-, -, s1, b, hp, hc⟩ := exec_cases h
  · exact .inl rfl
  · exact .inl rfl
  · exact .inl rfl
  · exact .inl (startPhase_rxSlot (s1 := s1) hp)
  · exact completeOrHold_rxSlot hc
  · rw [← startPhase_rxSlot hp]
    exact completeOrHold_rxSlot hc

theorem step_frames (h : step s = .next t) :
    t.engine.frames = s.engine.frames ∨ ∃ x, t.engine.frames = s.engine.frames ++ [x] := by
  obtain ⟨-, rfl | ⟨m, xs, rfl⟩ | ⟨hd, raw, rest, m, -, -, -, rfl⟩⟩ | ⟨i, w, τ, rest, -, -, -, -, -, hx⟩ := step_cases h
  · exact .inl rfl
  · exact .inl (frames_engineMove m _)
  · exact .inl (by rw [completed_engine]; rfl)
  · exact exec_frames (s := sample τ (setInputs rest s)) hx

theorem step_rxSlot (h : step s = .next t) :
    t.engine.rxSlot = s.engine.rxSlot ∨ (∃ w, t.engine.rxSlot = s.engine.rxSlot ++ [w]) ∨
      ∃ w, s.engine.rxSlot = w :: t.engine.rxSlot := by
  obtain ⟨-, rfl | ⟨m, xs, rfl⟩ | ⟨hd, raw, rest, m, -, hr, -, rfl⟩⟩ | ⟨i, w, τ, rest, -, -, -, -, -, hx⟩ := step_cases h
  · exact .inl rfl
  · obtain ⟨-, hkept | ⟨w, -, hplaced⟩⟩ := engineMove_slots (s := setInputs xs s) m
    · exact .inl hkept
    · exact .inr (.inl ⟨w, hplaced⟩)
  · exact .inr (.inr ⟨raw, by simpa using hr⟩)
  · exact (exec_rxSlot (s := sample τ (setInputs rest s)) hx).imp_right .inr

end Sys2Proof.Machine
end

section
/-! CERTIFICATE. The statements of 20_memory, settled. -/

namespace Sys2Proof.Machine

/-- Settles O39: the operations left are R52's, they answer by the response alone, and none of them reads it. -/
theorem pureOperationsWriteNothing : Obligations.PureOperationsWriteNothing := by
  unfold Obligations.PureOperationsWriteNothing
  intro i s hwf hthrottle hcommand hstart hcomplete htick
  have hi := isPure_of_ne hthrottle hcommand hstart hcomplete htick
  obtain ⟨st, d, hx⟩ := exec_pure_answers hwf hi
  exact ⟨⟨st, d⟩, hx, (exec_pure_respond hi st d).trans hx⟩

/-- Settles O48: the transmit side gains a frame only by a start phase, and the move to the wire keeps the order; the
receive side gains a word only by a placement and loses its oldest only to a completion. -/
theorem engineSlotsFifo : Obligations.EngineSlotsFifo := by
  unfold Obligations.EngineSlotsFifo
  refine fun s t h => ⟨?_, step_rxSlot h⟩
  obtain hkept | ⟨x, hpushed⟩ := step_frames h
  · exact ⟨[], Nat.zero_le 1, hkept.trans (List.append_nil _).symm⟩
  · exact ⟨[x], Nat.le_refl 1, hpushed⟩

/-- Settles O58: with nothing held and no input the turn is to do nothing, and a held request with no word waits for an
engine move. -/
theorem nothingHappensWithoutInput : Obligations.NothingHappensWithoutInput := by
  unfold Obligations.NothingHappensWithoutInput
  refine ⟨fun s hheld hin => ?_, fun s hheld hrx hin => ?_⟩
  · simp only [step, turn, hheld, hin]
  · obtain ⟨hd, hheld⟩ := Option.ne_none_iff_exists'.1 hheld
    rw [step_held_waiting hheld hrx, takeEngineMove_eq_none.2 hin]

end Sys2Proof.Machine
end

section
/-! SUPPORT. The assembled word field by field, and each operation's operands as the low bits of `CH` and `A`: what the
two directions of the round trip rest on (30_encoding R68, R69, R70, R76). -/

namespace Sys2Proof

@[simp] theorem opField_encode (i : Instr) : opField (encode i) = i.op.code := by
  unfold opField encode
  rw [BitVec.extractLsb'_append_eq_of_le (by decide), BitVec.extractLsb'_append_eq_of_le (by decide)]
  exact BitVec.extractLsb'_append_eq_left

@[simp] theorem chField_encode (i : Instr) : chField (encode i) = i.chOperand := by
  unfold chField encode
  rw [BitVec.extractLsb'_append_eq_of_le (by decide), BitVec.extractLsb'_append_eq_of_le (by decide)]
  exact BitVec.extractLsb'_append_eq_right

/-- The low bits of an assembled word are those of its `A` field. -/
theorem extractLsb'_encode (i : Instr) {n : Nat} (h : n ≤ 32) :
    (encode i).extractLsb' 0 n = i.aOperand.setWidth n := by
  unfold encode
  rw [BitVec.extractLsb'_append_eq_of_add_le (by omega), BitVec.setWidth_eq_extractLsb' h]

@[simp] theorem Op.ofCode_code (o : Op) : Op.ofCode o.code = some o := by cases o <;> rfl

@[simp] theorem StatSel.ofCode_code (sel : StatSel) : StatSel.ofCode sel.code = sel := by cases sel <;> rfl

@[simp] theorem StatSel.code_ofCode (c : BitVec 3) : (StatSel.ofCode c).code = c := by revert c; decide

/-- Every assembled word matches its row of spec/opcode_table.json (30_encoding R75). -/
theorem encode_and_mask : ∀ i : Instr, encode i &&& i.op.mask = i.op.pattern
  | .nop => Laws.Row.nop
  | .crc4 p => Laws.Row.crc4 p
  | .encode v t => Laws.Row.encode v t
  | .frameDecode f => Laws.Row.frameDecode f
  | .gcrSymbol y => Laws.Row.gcrSymbol y
  | .tlmDecode w => Laws.Row.tlmDecode w
  | .tlmClassify d => Laws.Row.tlmClassify d
  | .throttle ch v => Laws.Row.throttle ch v
  | .command ch k => Laws.Row.command ch k
  | .tickStart => Laws.Row.tickStart
  | .tickComplete => Laws.Row.tickComplete
  | .tick => Laws.Row.tick
  | .readStat ch sel => Laws.Row.readStat ch sel

theorem encode_and_mustBeZero (i : Instr) : encode i &&& i.op.mustBeZero = 0 := by
  have hmask (o : Op) : o.mask &&& o.mustBeZero = o.mustBeZero := by cases o <;> decide
  have hpattern (o : Op) : o.pattern &&& o.mustBeZero = 0 := by cases o <;> decide
  calc encode i &&& i.op.mustBeZero
    _ = encode i &&& i.op.mask &&& i.op.mustBeZero := by rw [BitVec.and_assoc, hmask]
    _ = 0 := by rw [encode_and_mask, hpattern]

theorem getLsbD_encode (i : Instr) {k : Nat} (h : k < 32) : (encode i).getLsbD k = i.aOperand.getLsbD k := by
  rw [encode, BitVec.getLsbD_append, if_pos h]

/-- The operands read from an assembled word are the ones it was assembled from. -/
theorem withOperands_encode (i : Instr) : i.op.withOperands (encode i) = i := by
  cases i with
  | encode v t =>
    have ht : ((BitVec.ofBool t ++ v : BitVec 12).setWidth 32).getLsbD 11 = t := by
      rw [BitVec.getLsbD_setWidth, BitVec.getLsbD_append (n := 1) (m := 11)]; simp
    simp only [Instr.op, Op.withOperands, extractLsb'_encode, getLsbD_encode, Instr.aOperand, ht, Nat.reduceLeDiff,
      Nat.reduceLT, BitVec.setWidth_setWidth_of_le, BitVec.setWidth_append_eq_right]
  | _ => simp [Instr.op, Op.withOperands, extractLsb'_encode, Instr.chOperand, Instr.aOperand]

/-- The channel an operation takes from a word is the operand part of `CH`. -/
theorem Op.chOperand_withOperands (o : Op) (w : ReqWord) :
    (o.withOperands w).chOperand = (w.extractLsb' 52 o.chWidth).setWidth 8 := by
  cases o <;> simp [Op.withOperands, Instr.chOperand, Op.chWidth, chField]

/-- The `A` field an operation's operands make is the operand part of the word's. -/
theorem Op.aOperand_withOperands (o : Op) (w : ReqWord) :
    (o.withOperands w).aOperand = (w.extractLsb' 0 o.aWidth).setWidth 32 := by
  cases o with
  | encode =>
    have ht : BitVec.ofBool (w.getLsbD 11) = w.extractLsb' 11 1 :=
      BitVec.eq_of_getLsbD_eq fun i hi => by obtain rfl := Nat.lt_one_iff.1 hi; simp
    simp only [Op.withOperands, Instr.aOperand, Op.aWidth, ht]
    rw [BitVec.extractLsb'_append_extractLsb'_eq_extractLsb' (start₂ := 11) (start₁ := 0) rfl]
  | _ => simp [Op.withOperands, Instr.aOperand, Op.aWidth]

/-- A field whose value fits its low `m` bits is those bits, zero-extended. -/
theorem setWidth_extractLsb'_of_lt (w : ReqWord) {k m n : Nat} (hmn : m ≤ n)
    (h : (w.extractLsb' k n).toNat < 2 ^ m) : (w.extractLsb' k m).setWidth n = w.extractLsb' k n := by
  rw [← BitVec.setWidth_extractLsb'_of_le hmn, ← BitVec.toNat_inj, BitVec.toNat_setWidth, BitVec.toNat_setWidth,
    Nat.mod_eq_of_lt h, Nat.mod_eq_of_lt (BitVec.isLt _)]

/-- A word whose must-be-zero bits are 0 is assembled again from its `OP` and its operands. -/
theorem encode_withOperands {o : Op} {w : ReqWord} (hop : o.code = opField w) (hmask : w &&& o.mustBeZero = 0) :
    encode (o.withOperands w) = w := by
  obtain ⟨hch, hrsv, ha⟩ := (and_mustBeZero_eq_zero_iff o w).1 hmask
  have hch' : (w.extractLsb' 52 o.chWidth).setWidth 8 = chField w :=
    setWidth_extractLsb'_of_lt w (by cases o <;> decide) (by rwa [← chField_toNat] at hch)
  have hrsv' : (0 : BitVec 20) = w.extractLsb' 32 20 := by
    rw [← BitVec.toNat_inj, BitVec.extractLsb'_toNat, Nat.shiftRight_eq_div_pow]; exact (Nat.lt_one_iff.1 hrsv).symm
  have ha' : (w.extractLsb' 0 o.aWidth).setWidth 32 = w.extractLsb' 0 32 :=
    setWidth_extractLsb'_of_lt w (by cases o <;> decide) (by rwa [BitVec.extractLsb'_toNat, Nat.shiftRight_zero])
  rw [encode, Op.op_withOperands, hop, Op.chOperand_withOperands, Op.aOperand_withOperands, hch', hrsv', ha',
    ← word_eq_fields w]

end Sys2Proof
end

section
/-! SUPPORT. `GCR_INV` as the inverse of `GCR_TABLE`, and what of the receive word the GCR word depends on (30_encoding
R63, R64, R65). -/

namespace Sys2Proof.Machine

/-- A symbol is invalid exactly when it is the symbol of no nibble. -/
theorem gcrInv_eq_none_iff {c : Config} {y : Symbol} : gcrInv c y = none ↔ ∀ n : Nibble, gcrSymbolOf c n ≠ y := by
  simp only [gcrInv, Option.map_eq_none_iff, List.findIdx?_eq_none_iff, beq_eq_false_iff_ne, Vector.mem_toList_iff,
    Vector.forall_mem_iff_forall_getElem]
  exact ⟨fun h n => h n.toNat n.isLt, fun h k hk => h (BitVec.ofNatLT k hk)⟩

/-- Under a table without duplicates, `GCR_INV` is the inverse of `GCR_TABLE`. -/
theorem gcrInv_gcrSymbolOf {c : Config} (h : c.gcrTable.toList.Nodup) (n : Nibble) :
    gcrInv c (gcrSymbolOf c n) = some n := by
  have hfind : c.gcrTable.toList.findIdx? (· == gcrSymbolOf c n) = some n.toNat := by
    have hlen : n.toNat < c.gcrTable.toList.length := by simpa using n.isLt
    have hn : c.gcrTable.toList[n.toNat] = gcrSymbolOf c n := Vector.getElem_toList hlen
    refine List.findIdx?_eq_some_iff_getElem.2 ⟨hlen, beq_iff_eq.2 hn, fun j hj hp => ?_⟩
    exact hj.ne (h.getElem_inj_iff.1 ((beq_iff_eq.1 hp).trans hn.symm))
  rw [gcrInv, hfind, Option.map_some, BitVec.ofNat_toNat, BitVec.setWidth_eq]

theorem gcrWord_toNat (w : RxWord) : (gcrWord w).toNat = (w.toNat ^^^ w.toNat / 2) % 2 ^ 20 := by
  rw [gcrWord, BitVec.toNat_setWidth, BitVec.toNat_xor, BitVec.toNat_ushiftRight, Nat.shiftRight_one]

theorem gcrWord_bit19 (w : RxWord) : (gcrWord w).getLsbD 19 = (w.getLsbD 19 ^^ w.getLsbD 20) := by
  simp [gcrWord]

/-- The GCR word depends on bits 20:0 of the receive word alone. -/
theorem gcrWord_congr {a b : RxWord} (h : a.toNat % 2 ^ 21 = b.toNat % 2 ^ 21) : gcrWord a = gcrWord b := by
  have hlow : a.toNat % 2 ^ 20 = b.toNat % 2 ^ 20 := by omega
  have hshift : a.toNat / 2 % 2 ^ 20 = b.toNat / 2 % 2 ^ 20 := by omega
  rw [← BitVec.toNat_inj, gcrWord_toNat, gcrWord_toNat, Nat.xor_mod_two_pow, Nat.xor_mod_two_pow, hlow, hshift]

theorem tlmDecodeFn_zero (c : Config) : tlmDecodeFn c 0 = (.timeout, 0) := if_pos rfl

/-- Two nonzero words with one GCR word decode alike. -/
theorem tlmDecodeFn_congr (c : Config) {a b : RxWord} (ha : a ≠ 0) (hb : b ≠ 0) (h : gcrWord a = gcrWord b) :
    tlmDecodeFn c a = tlmDecodeFn c b := by
  unfold tlmDecodeFn
  rw [if_neg ha, if_neg hb, h]

end Sys2Proof.Machine
end

section
/-! SUPPORT. Refusals: a reserved word is refused at acceptance (60_exceptions R115), and of the well-formed operations
only a tick is refused, in the wrong phase (42_channel_mux R95). -/

namespace Sys2Proof.Machine

variable {s : State} {r : Refusal}

theorem withMotor_not_refused {c : Channel} {k : Motor → Result} (hk : ∀ m, k m ≠ .refused r) :
    withMotor c s k ≠ .refused r := by
  unfold withMotor
  cases motorAt s c with
  | none => nofun
  | some m => exact hk m

theorem onChannel_not_refused {c : Channel} {k : Motor → Result} (hk : ∀ m, k m ≠ .refused r) :
    onChannel c s k ≠ .refused r := by
  unfold onChannel
  split
  · exact withMotor_not_refused hk
  · nofun

theorem completeOrHold_not_refused {h : Held} : completeOrHold h s ≠ .refused r := by
  unfold completeOrHold
  cases engPop s with
  | none => nofun
  | some p => exact withMotor_not_refused nofun

/-- A reserved word at the port is refused before anything else (60_exceptions R115). -/
theorem step_of_reserved {w : ReqWord} {t : Micros} {rest : List Input} {why : ReservedReason} (hheld : s.held = none)
    (hin : s.inputs = .request w t :: rest) (ht : s.now ≤ t) (hd : decode w = .reserved why) :
    step s = .refused (.reservedWord why) := by
  simp only [step, turn, hheld, hin, acceptRequest, setInputs_now, if_neg (Nat.not_lt.2 ht), hd]

/-- The only refusal of a well-formed operation is the wrong phase of a tick. -/
theorem wrongPhase_of_exec_refused {i : Instr} (hi : i.wellFormed = true) (h : exec i s = .refused r) :
    r = .wrongPhase := by
  cases i with
  | throttle c v => exact absurd h (onChannel_not_refused nofun)
  | readStat c sel => exact absurd h (onChannel_not_refused nofun)
  | command c k =>
    simp only [Instr.wellFormed, decide_eq_true_eq] at hi
    simp only [exec, execCommand, if_neg (Nat.not_lt.2 hi)] at h
    exact absurd h (onChannel_not_refused nofun)
  | tickStart =>
    simp only [exec, execTickStart] at h
    split at h
    · split at h <;> cases h
    · cases h; rfl
  | tickComplete =>
    simp only [exec, execTickComplete] at h
    split at h
    · exact absurd h completeOrHold_not_refused
    · cases h; rfl
  | tick =>
    simp only [exec, execTick] at h
    split at h
    · split at h
      · exact absurd h completeOrHold_not_refused
      · cases h
    · cases h; rfl
  | _ => cases h

end Sys2Proof.Machine
end

section
/-! CERTIFICATE. The statements of 30_encoding, settled. -/

namespace Sys2Proof.Machine

/-- Settles O1: the assembled word has the operation's number and operands in their fields and no 1 in a must-be-zero bit,
so the decoder reads the operation back. -/
theorem decodeOfEncode : Obligations.DecodeOfEncode := by
  unfold Obligations.DecodeOfEncode
  intro i hwf
  have hop : Op.ofCode (opField (Sys2Proof.encode i)) = some i.op := by rw [opField_encode, Op.ofCode_code]
  have hres : ¬ IsReservedWord (Sys2Proof.encode i) :=
    (not_isReservedWord_iff_of_ofCode hop).2 ⟨encode_and_mustBeZero i, by rwa [withOperands_encode]⟩
  exact decode_eq_instr_iff.2 ⟨hres, i.op, hop, withOperands_encode i⟩

/-- Settles O2: a word that decodes has no 1 outside `OP` and the operands, and both are assembled again. -/
theorem encodeOfDecode : Obligations.EncodeOfDecode := by
  unfold Obligations.EncodeOfDecode
  intro w i h
  refine ⟨wellFormed_of_decode h, ?_⟩
  obtain ⟨hres, o, hop, rfl⟩ := decode_eq_instr_iff.1 h
  obtain ⟨hmask, -⟩ := (not_isReservedWord_iff_of_ofCode hop).1 hres
  exact encode_withOperands (Op.code_of_ofCode hop) hmask

/-- Settles O3: a reserved word is refused at acceptance; any other decodes to a well-formed operation, whose only refusal
is the wrong phase. -/
theorem reservedWordsRefused : Obligations.ReservedWordsRefused := by
  unfold Obligations.ReservedWordsRefused
  intro s w t rest hheld hin ht
  constructor
  · rintro ⟨why, hstep⟩
    by_contra hres
    obtain ⟨i, hi⟩ := not_isReservedWord_iff.1 hres
    rw [step_of_turn_perform (turn_eq_perform.2 ⟨hheld, w, t, rest, hin, ht, hi, rfl⟩)] at hstep
    cases wrongPhase_of_exec_refused (wellFormed_of_decode hi) hstep
  · intro hres
    cases hd : decode w with
    | instr i => exact absurd hres (not_isReservedWord_iff.2 ⟨i, hd⟩)
    | reserved why => exact ⟨why, step_of_reserved hheld hin ht hd⟩

/-- Settles O4: each word is the assembled word of its operation. -/
theorem decodeSampleWords : Obligations.DecodeSampleWords := by
  unfold Obligations.DecodeSampleWords
  exact ⟨decodeOfEncode (.crc4 0x123) rfl, decodeOfEncode (.encode 0x416 true) rfl, decodeOfEncode (.gcrSymbol 0x19) rfl,
    decodeOfEncode (.throttle 255 2047) rfl, decodeOfEncode (.command 9 47) rfl, decodeOfEncode .tickStart rfl,
    decodeOfEncode (.readStat 2 .fallback) rfl⟩

/-- Settles O12: a table without duplicates is inverted symbol by symbol, and the 16 symbols of R64 are those the default
table lacks. -/
theorem gcrInverse : Obligations.GcrInverse := by
  unfold Obligations.GcrInverse
  refine ⟨fun c hwf => ⟨?_, fun y => gcrInv_eq_none_iff.2⟩, fun c hc y => ?_⟩
  · obtain ⟨-, -, -, hnodup, -⟩ := hwf
    exact gcrInv_gcrSymbolOf hnodup
  · have hdefault (n : Nibble) : gcrSymbolOf c n = defaultGcrTable[n.toNat]'n.isLt := by simp only [gcrSymbolOf, hc]
    simp only [gcrInv_eq_none_iff, hdefault]
    revert y
    decide

/-- Settles O14: bit 20 is the highest the shift brings below bit 20, so bits 20:0 make the GCR word, and the decode of a
nonzero word depends on it alone. -/
theorem receiveWordBits : Obligations.ReceiveWordBits := by
  unfold Obligations.ReceiveWordBits
  exact ⟨tlmDecodeFn_zero, gcrWord_toNat, gcrWord_bit19,
    fun c a b ha hb h => tlmDecodeFn_congr c ha hb (gcrWord_congr h)⟩

end Sys2Proof.Machine
end

section
/-! SUPPORT. The assembled word as a natural, `OP * 2^60 + CH * 2^52 + A` (30_encoding R68, R76), and the decoder on it. -/

namespace Sys2Proof

/-- Fields side by side make the number whose high part is the left field's and whose low part the right field's. -/
theorem toNat_append_eq_add {m n : Nat} (x : BitVec m) (y : BitVec n) : (x ++ y).toNat = x.toNat * 2 ^ n + y.toNat := by
  rw [BitVec.toNat_append, ← Nat.shiftLeft_add_eq_or_of_lt y.isLt, Nat.shiftLeft_eq]

theorem encode_toNat (i : Instr) :
    (encode i).toNat = i.op.code.toNat * 2 ^ 60 + i.chOperand.toNat * 2 ^ 52 + i.aOperand.toNat := by
  simp only [encode, toNat_append_eq_add, BitVec.ofNat_eq_ofNat, BitVec.toNat_ofNat]
  omega

/-- The number made of an operation's fields decodes to the operation. -/
theorem decode_ofNat {i : Instr} (hwf : i.wellFormed = true) {n : Nat}
    (hn : i.op.code.toNat * 2 ^ 60 + i.chOperand.toNat * 2 ^ 52 + i.aOperand.toNat = n) :
    decode (BitVec.ofNat 64 n) = .instr i := by
  rw [← hn, ← encode_toNat, BitVec.ofNat_toNat, BitVec.setWidth_eq]
  exact Machine.decodeOfEncode i hwf

end Sys2Proof
end

section
/-! SUPPORT. The frame codec's functions as their fields side by side and as the rules' formulas on naturals
(40_frame_codec R77 to R81), and the sum of a frame's nibbles, which decides whether its CRC is valid (R82). -/

namespace Sys2Proof.Machine

theorem crc4_toNat (p : Data12) :
    (crc4 p).toNat = 15 ^^^ p.toNat % 16 ^^^ p.toNat / 16 % 16 ^^^ p.toNat / 256 := by
  have htop : p.toNat / 256 % 16 = p.toNat / 256 := by omega
  simp only [crc4, BitVec.not_def, BitVec.toNat_xor, BitVec.toNat_allOnes, BitVec.extractLsb'_toNat,
    Nat.shiftRight_eq_div_pow, Nat.reducePow, Nat.div_one, htop, Nat.reduceSub, Nat.xor_assoc]

/-- A field shifted over a field of `n` bits, ORed with that field, is the two side by side, zero-extended. -/
theorem shiftLeft_or_eq_append {m n k : Nat} (x : BitVec m) (y : BitVec n) :
    x.setWidth k <<< n ||| y.setWidth k = (x ++ y).setWidth k := by
  refine BitVec.eq_of_getLsbD_eq fun i hi => ?_
  simp only [BitVec.getLsbD_or, BitVec.getLsbD_shiftLeft, BitVec.getLsbD_setWidth, BitVec.getLsbD_append]
  by_cases hin : i < n
  · simp [hin, hi]
  · have hshift : i - n < k := by omega
    simp [hin, hi, hshift, BitVec.getLsbD_of_ge y i (by omega)]

theorem payload12_eq_append (v : BitVec 11) (t : Bool) : payload12 v t = v ++ BitVec.ofBool t :=
  (shiftLeft_or_eq_append v (BitVec.ofBool t)).trans (BitVec.setWidth_eq _)

theorem encodeFrame_eq_append (v : BitVec 11) (t : Bool) : encodeFrame v t = payload12 v t ++ crc4 (payload12 v t) :=
  (shiftLeft_or_eq_append (payload12 v t) (crc4 (payload12 v t))).trans (BitVec.setWidth_eq _)

theorem payload12_toNat (v : BitVec 11) (t : Bool) : (payload12 v t).toNat = 2 * v.toNat + t.toNat := by
  rw [payload12_eq_append, toNat_append_eq_add, BitVec.toNat_ofBool, Nat.pow_one, Nat.mul_comm]

theorem encodeFrame_toNat (v : BitVec 11) (t : Bool) :
    (encodeFrame v t).toNat = 16 * (payload12 v t).toNat + (crc4 (payload12 v t)).toNat := by
  rw [encodeFrame_eq_append, toNat_append_eq_add, Nat.mul_comm]
  rfl

theorem frameValue_toNat (f : Frame) : (frameValue f).toNat = f.toNat / 32 := by
  simp only [frameValue, BitVec.extractLsb'_toNat, Nat.shiftRight_eq_div_pow]
  omega

theorem upper12_toNat (f : Frame) : (upper12 f).toNat = f.toNat / 16 := by
  simp only [upper12, BitVec.extractLsb'_toNat, Nat.shiftRight_eq_div_pow]
  omega

theorem frameCrc_toNat (f : Frame) : (frameCrc f).toNat = f.toNat % 16 := by
  rw [frameCrc, BitVec.extractLsb'_toNat, Nat.shiftRight_zero]

theorem frameTlm_toNat (f : Frame) : (frameTlm f).toNat = f.toNat / 16 % 2 := by
  rw [frameTlm, BitVec.getLsbD, Nat.toNat_testBit]

/-- The CRC of a frame is valid exactly when R79's formula on its nibbles says so. -/
theorem frameCrcOk_iff_toNat (f : Frame) : frameCrcOk f = true ↔
    f.toNat % 16 = 15 ^^^ f.toNat / 16 % 16 ^^^ f.toNat / 256 % 16 ^^^ f.toNat / 4096 := by
  rw [frameCrcOk, beq_iff_eq, ← BitVec.toNat_inj, frameCrc_toNat, crc4_toNat, upper12_toNat, Nat.div_div_eq_div_mul,
    Nat.div_div_eq_div_mul]

/-- R80: the value is read back from an encoded frame. -/
@[simp] theorem frameValue_encodeFrame (v : BitVec 11) (t : Bool) : frameValue (encodeFrame v t) = v := by
  rw [frameValue, encodeFrame_eq_append, payload12_eq_append, BitVec.extractLsb'_append_eq_of_le (by decide)]
  exact BitVec.extractLsb'_append_eq_left

/-- R80: the telemetry-request bit is read back from an encoded frame. -/
@[simp] theorem frameTlm_encodeFrame (v : BitVec 11) (t : Bool) : frameTlm (encodeFrame v t) = t := by
  rw [frameTlm, encodeFrame_eq_append, payload12_eq_append, BitVec.getLsbD_append, BitVec.getLsbD_append]
  simp

/-- FRAME_DECODE's data: value in bits 10:0, tlm in bit 11, crc_ok in bit 16 (40_frame_codec R79). -/
theorem frameDecodeData_eq_append (ok t : Bool) (v : BitVec 11) :
    frameDecodeData ok t v = (BitVec.ofBool ok ++ (BitVec.ofBool t ++ v).setWidth 16).setWidth 32 := by
  rw [← shiftLeft_or_eq_append, BitVec.setWidth_setWidth (by decide), ← shiftLeft_or_eq_append, ← BitVec.or_assoc]
  rfl

theorem frameDecodeData_toNat (ok t : Bool) (v : BitVec 11) :
    (frameDecodeData ok t v).toNat = ok.toNat * 2 ^ 16 + t.toNat * 2 ^ 11 + v.toNat := by
  rw [frameDecodeData_eq_append, BitVec.toNat_setWidth_of_le (by decide), toNat_append_eq_add,
    BitVec.toNat_setWidth_of_le (by decide), toNat_append_eq_add, BitVec.toNat_ofBool, BitVec.toNat_ofBool, Nat.add_assoc]

theorem frameDecodeData_bit16 (ok t : Bool) (v : BitVec 11) : (frameDecodeData ok t v).getLsbD 16 = ok := by
  simp [frameDecodeData]

/-- The CRC of a sum is the CRC of one summand and the nibbles' XOR of the other, which is its CRC inverted. -/
theorem crc4_xor (p q : Data12) : crc4 (p ^^^ q) = crc4 p ^^^ ~~~ crc4 q := by
  simp only [crc4, BitVec.extractLsb'_xor, BitVec.not_not, ← BitVec.not_xor_left]
  congr 1
  ac_rfl

/-- A pattern of inverted bits leaves a valid frame's CRC valid exactly when its own low nibble is the XOR of its other
three (40_frame_codec R82). -/
theorem frameCrcOk_xor {f : Frame} (h : frameCrcOk f = true) (e : Frame) :
    frameCrcOk (f ^^^ e) = (frameCrc e == ~~~ crc4 (upper12 e)) := by
  have hf : frameCrc f = crc4 (upper12 f) := eq_of_beq h
  have hcrc : frameCrc (f ^^^ e) = crc4 (upper12 f) ^^^ frameCrc e := by rw [← hf]; exact BitVec.extractLsb'_xor
  have hupper : upper12 (f ^^^ e) = upper12 f ^^^ upper12 e := BitVec.extractLsb'_xor
  rw [frameCrcOk, hcrc, hupper, crc4_xor, Bool.eq_iff_iff, beq_iff_eq, beq_iff_eq, BitVec.xor_right_inj]

/-- A pure operation's answer, its data as a natural. -/
theorem answer_eq_ofNat {d : RespData} {n : Nat} (h : d.toNat = n) (s : State) :
    answer d s = .next { s with response := some ⟨.ok, BitVec.ofNat 32 n⟩ } := by
  rw [← h, BitVec.ofNat_toNat, BitVec.setWidth_eq]
  rfl

end Sys2Proof.Machine
end

section
/-! CERTIFICATE. The statements of 40_frame_codec, settled. -/

namespace Sys2Proof.Machine

/-- Settles O7: the fold's data is the rule's formula on naturals, and the word is CRC4's with `A = P`. -/
theorem crcResult : Obligations.CrcResult := by
  unfold Obligations.CrcResult
  refine ⟨fun p s => answer_eq_ofNat ?_ s, fun p => decode_ofNat rfl ?_⟩
  · rw [BitVec.toNat_setWidth_of_le (by decide), crc4_toNat]
  · rw [Instr.aOperand, BitVec.toNat_setWidth_of_le (by decide)]
    simp [Instr.op, Op.code, Instr.chOperand]

/-- Settles O8: payload12 is `2 V + T`, its CRC is the low nibble, and the word has `T` above `V` in `A`. -/
theorem encodeResult : Obligations.EncodeResult := by
  unfold Obligations.EncodeResult
  refine ⟨fun v b s => answer_eq_ofNat ?_ s, fun v b => decode_ofNat rfl ?_⟩
  · rw [BitVec.toNat_setWidth_of_le (by decide), encodeFrame_toNat, crc4_toNat, payload12_toNat]
  · rw [Instr.aOperand, BitVec.toNat_setWidth_of_le (by decide), toNat_append_eq_add, BitVec.toNat_ofBool, ← Nat.add_assoc]
    simp [Instr.op, Op.code, Instr.chOperand]

/-- Settles O9: each field of the data is that of the frame, and the word is FRAME_DECODE's with `A = F`. -/
theorem frameDecodeResult : Obligations.FrameDecodeResult := by
  unfold Obligations.FrameDecodeResult
  refine ⟨fun f s => answer_eq_ofNat ?_ s, fun f => decode_ofNat rfl ?_⟩
  · rw [frameDecodeData_toNat, frameTlm_toNat, frameValue_toNat]
    simp only [← frameCrcOk_iff_toNat]
    cases frameCrcOk f <;> rfl
  · rw [Instr.aOperand, BitVec.toNat_setWidth_of_le (by decide)]
    simp [Instr.op, Op.code, Instr.chOperand]

/-- Settles O10: the fields of an encoded frame are the value, the bit and a valid CRC. -/
theorem frameRoundTrip : Obligations.FrameRoundTrip := by
  unfold Obligations.FrameRoundTrip
  refine fun v b => ⟨frameCrc_encodeFrame v b, fun s => answer_eq_ofNat ?_ s⟩
  rw [frameDecodeData_toNat, frameCrcOk_encodeFrame, frameTlm_encodeFrame, frameValue_encodeFrame]
  rfl

/-- Settles O11: one inverted bit is a 1 in one nibble alone, so the nibbles of the pattern do not cancel; bits 4 and 8
do. -/
theorem singleBitErrorDetected : Obligations.SingleBitErrorDetected := by
  unfold Obligations.SingleBitErrorDetected
  intro f s hok
  have hsingle : ∀ i < 16, (frameCrc (BitVec.twoPow 16 i) == ~~~ crc4 (upper12 (BitVec.twoPow 16 i))) = false := by
    decide
  have hpair : (frameCrc 0x0110 == ~~~ crc4 (upper12 0x0110)) = true := by decide
  refine ⟨fun i hi => ⟨_, rfl, ?_⟩, _, rfl, ?_⟩
  · rw [frameDecodeData_bit16, frameCrcOk_xor hok, hsingle i hi]
  · rw [frameDecodeData_bit16, frameCrcOk_xor hok, hpair]

end Sys2Proof.Machine
end

section
/-! SUPPORT. The word of an operation with one operand, in `A`, and no channel. -/

namespace Sys2Proof

/-- `OP << 60 | A`, with the operand as `A`, decodes to the operation (30_encoding R69, R76). -/
theorem decode_ofNat_operand {i : Instr} (hwf : i.wellFormed = true) {k n : Nat} (hk : i.op.code.toNat = k)
    (hch : i.chOperand = 0) {x : BitVec n} (hn : n ≤ 32) (ha : i.aOperand = x.setWidth 32) :
    decode (BitVec.ofNat 64 (k * 2 ^ 60 + x.toNat)) = .instr i := by
  refine decode_ofNat hwf ?_
  rw [hk, hch, ha, BitVec.toNat_setWidth_of_le hn, BitVec.ofNat_eq_ofNat, BitVec.toNat_ofNat, Nat.zero_mod, Nat.zero_mul,
    Nat.add_zero]

end Sys2Proof
end

section
/-! SUPPORT. The telemetry demodulator (41_telemetry R83, R84): which symbols are valid, the frame of four symbols, and the
data of its two answers. -/

namespace Sys2Proof.Machine

/-- The valid symbols are the entries of the table. -/
theorem gcrInv_isSome_iff {c : Config} {y : Symbol} : (gcrInv c y).isSome = true ↔ y ∈ c.gcrTable.toList := by
  simp [gcrInv, List.any_beq']

/-- A table without duplicates makes as many of the 32 symbols valid as it has entries. -/
theorem countP_gcrInv_isSome {c : Config} (h : c.gcrTable.toList.Nodup) :
    (List.range 32).countP (fun k => (gcrInv c (BitVec.ofNat 5 k)).isSome) = 16 := by
  have hperm : ((List.range 32).filter fun k => (gcrInv c (BitVec.ofNat 5 k)).isSome).Perm
      (c.gcrTable.toList.map BitVec.toNat) := by
    refine (List.perm_ext_iff_of_nodup (List.nodup_range.filter _)
      (h.map fun _ _ => BitVec.eq_of_toNat_eq)).2 fun k => ?_
    rw [List.mem_filter, List.mem_range, gcrInv_isSome_iff, List.mem_map]
    constructor
    · rintro ⟨hk, hmem⟩
      exact ⟨_, hmem, Nat.mod_eq_of_lt hk⟩
    · rintro ⟨y, hmem, rfl⟩
      exact ⟨y.isLt, by rwa [BitVec.ofNat_toNat, BitVec.setWidth_eq]⟩
  rw [List.countP_eq_length_filter, hperm.length_eq, List.length_map, Vector.length_toList]

theorem gcrSymbolData_some_toNat (n : Nibble) : (gcrSymbolData (some n)).toNat = 16 + n.toNat := by
  have hfields : gcrSymbolData (some n) = (1#1 ++ n).setWidth 32 := shiftLeft_or_eq_append 1#1 n
  rw [hfields, BitVec.toNat_setWidth_of_le (by decide), toNat_append_eq_add]
  rfl

theorem gcrSymbolAt_toNat (g : BitVec 20) (i : Nat) : (gcrSymbolAt g i).toNat = g.toNat / 32 ^ i % 32 := by
  rw [gcrSymbolAt, BitVec.extractLsb'_toNat, Nat.shiftRight_eq_div_pow, Nat.pow_mul]

theorem joinNibbles_toNat (n3 n2 n1 n0 : Nibble) :
    (joinNibbles n3 n2 n1 n0).toNat = n3.toNat * 4096 + n2.toNat * 256 + n1.toNat * 16 + n0.toNat := by
  simp only [joinNibbles, toNat_append_eq_add]
  omega

/-- A frame is its four nibbles side by side. -/
theorem joinNibbles_nibbles (f : Frame) :
    joinNibbles (f.extractLsb' 12 4) (f.extractLsb' 8 4) (f.extractLsb' 4 4) (f.extractLsb' 0 4) = f := by
  rw [← BitVec.toNat_inj, joinNibbles_toNat]
  simp only [BitVec.extractLsb'_toNat, Nat.shiftRight_eq_div_pow]
  omega

theorem frameCrcOk_joinNibbles (n3 n2 n1 n0 : Nibble) : frameCrcOk (joinNibbles n3 n2 n1 n0) = true ↔
    n0.toNat = 15 ^^^ n1.toNat ^^^ n2.toNat ^^^ n3.toNat := by
  have h0 := n0.isLt
  have h1 := n1.isLt
  have h2 := n2.isLt
  have e0 : (joinNibbles n3 n2 n1 n0).toNat % 16 = n0.toNat := by rw [joinNibbles_toNat]; omega
  have e1 : (joinNibbles n3 n2 n1 n0).toNat / 16 % 16 = n1.toNat := by rw [joinNibbles_toNat]; omega
  have e2 : (joinNibbles n3 n2 n1 n0).toNat / 256 % 16 = n2.toNat := by rw [joinNibbles_toNat]; omega
  have e3 : (joinNibbles n3 n2 n1 n0).toNat / 4096 = n3.toNat := by rw [joinNibbles_toNat]; omega
  rw [frameCrcOk_iff_toNat, e0, e1, e2, e3]

/-- One invalid symbol, whichever of the four, leaves a GCR word without a frame. -/
theorem edtFrame_eq_none {c : Config} {g : BitVec 20} {i : Nat} (hi : i < 4) (h : gcrInv c (gcrSymbolAt g i) = none) :
    edtFrame c g = none := by
  unfold edtFrame
  split
  · next h3 h2 h1 h0 =>
    interval_cases i
    · rw [h0] at h; cases h
    · rw [h1] at h; cases h
    · rw [h2] at h; cases h
    · rw [h3] at h; cases h
  · rfl

/-- Under a table without duplicates, a symbol that is a nibble's decodes to it. -/
theorem gcrInv_gcrSymbolAt {c : Config} (h : c.gcrTable.toList.Nodup) {g : BitVec 20} {i : Nat} {n : Nibble}
    (hn : (gcrSymbolOf c n).toNat = g.toNat / 32 ^ i % 32) : gcrInv c (gcrSymbolAt g i) = some n := by
  rw [← gcrInv_gcrSymbolOf h n]
  exact congrArg _ (BitVec.eq_of_toNat_eq ((gcrSymbolAt_toNat g i).trans hn.symm))

/-- Four symbols of the table make the frame of their nibbles. -/
theorem edtFrame_of_symbols {c : Config} (h : c.gcrTable.toList.Nodup) {g : BitVec 20} {n3 n2 n1 n0 : Nibble}
    (h0 : (gcrSymbolOf c n0).toNat = g.toNat % 32) (h1 : (gcrSymbolOf c n1).toNat = g.toNat / 32 % 32)
    (h2 : (gcrSymbolOf c n2).toNat = g.toNat / 32 ^ 2 % 32) (h3 : (gcrSymbolOf c n3).toNat = g.toNat / 32 ^ 3 % 32) :
    edtFrame c g = some (joinNibbles n3 n2 n1 n0) := by
  have e0 : gcrInv c (gcrSymbolAt g 0) = some n0 := gcrInv_gcrSymbolAt h (by rwa [Nat.pow_zero, Nat.div_one])
  have e1 : gcrInv c (gcrSymbolAt g 1) = some n1 := gcrInv_gcrSymbolAt h (by rwa [Nat.pow_one])
  simp only [edtFrame, e0, e1, gcrInv_gcrSymbolAt h h2, gcrInv_gcrSymbolAt h h3]

theorem tlmDecodeFn_of_none {c : Config} {w : RxWord} (hw : w ≠ 0) (h : edtFrame c (gcrWord w) = none) :
    tlmDecodeFn c w = (.badGcr, 0) := by
  simp only [tlmDecodeFn, if_neg hw, h]

theorem tlmDecodeFn_of_some {c : Config} {w : RxWord} {f : Frame} (hw : w ≠ 0) (h : edtFrame c (gcrWord w) = some f) :
    tlmDecodeFn c w = (if frameCrcOk f then .ok else .badCrc, f) := by
  simp only [tlmDecodeFn, if_neg hw, h]
  split <;> rfl

/-- TLM_DECODE's data: the frame in bits 15:0, the result above it (41_telemetry R84). -/
theorem tlmDecodeData_toNat (r : Res) (f : Frame) :
    (tlmDecodeData r f).toNat = (resCode r).toNat * 2 ^ 16 + f.toNat := by
  rw [tlmDecodeData, shiftLeft_or_eq_append, BitVec.toNat_setWidth_of_le (by decide), toNat_append_eq_add]

/-- The result part of TLM_DECODE's data. -/
theorem tlmDecodeData_result (r : Res) (f : Frame) : (tlmDecodeData r f).toNat / 2 ^ 16 = (resCode r).toNat := by
  rw [tlmDecodeData_toNat]
  omega

/-- The upper 12 bits of the frame in TLM_DECODE's data. -/
theorem tlmDecodeData_upper12 (r : Res) (f : Frame) : (tlmDecodeData r f).extractLsb' 4 12 = upper12 f := by
  rw [← BitVec.toNat_inj, BitVec.extractLsb'_toNat, tlmDecodeData_toNat, upper12_toNat, Nat.shiftRight_eq_div_pow]
  omega

end Sys2Proof.Machine
end

section
/-! SUPPORT. The ESC's side of the telemetry (41_telemetry R94): `INV_DIFF`, its differential encoding, and
the frame read back from the word of its four symbols. -/

namespace Sys2Proof.Machine

/-- The XOR of the `d` highest bits of `g`. -/
def topXor (g : BitVec 20) : Nat → Bool
  | 0 => false
  | d + 1 => g.getLsbD (19 - d) ^^ topXor g d

/-- `INV_DIFF(g)`: each bit is the XOR of the bits of `g` from it upward. -/
def invDiff (g : BitVec 20) : BitVec 20 := BitVec.ofFnLE fun i => topXor g (20 - i)

theorem getLsbD_invDiff (g : BitVec 20) (i : Nat) : (invDiff g).getLsbD i = topXor g (20 - i) := by
  rw [invDiff, BitVec.getLsbD_ofFnLE]
  split
  · rfl
  · rw [Nat.sub_eq_zero_of_le (by omega)]; rfl

/-- Each bit adds one bit of `g` to the bit above it. -/
theorem getLsbD_invDiff_succ (g : BitVec 20) {i : Nat} (hi : i < 20) :
    (invDiff g).getLsbD i = (g.getLsbD i ^^ (invDiff g).getLsbD (i + 1)) := by
  have hstep : 20 - i = 20 - (i + 1) + 1 := by omega
  have hbit : 19 - (20 - (i + 1)) = i := by omega
  rw [getLsbD_invDiff, getLsbD_invDiff, hstep, topXor, hbit]

theorem isInvDiff_invDiff (g : BitVec 20) : IsInvDiff g (invDiff g) := by
  refine ⟨?_, fun i hi => getLsbD_invDiff_succ g (by omega)⟩
  rw [getLsbD_invDiff_succ g (by decide), BitVec.getLsbD_of_ge _ 20 (by decide), Bool.xor_false]

/-- The differential decoding undoes `INV_DIFF`: at bit 19 nothing stands above, below it the bit
above cancels. -/
theorem gcrWord_of_isInvDiff {g raw : BitVec 20} (h : IsInvDiff g raw) : gcrWord (raw.setWidth 32) = g := by
  obtain ⟨htop, hbelow⟩ := h
  refine BitVec.eq_of_getLsbD_eq fun i hi => ?_
  have hxor : (gcrWord (raw.setWidth 32)).getLsbD i = (raw.getLsbD i ^^ raw.getLsbD (i + 1)) := by
    simp [gcrWord, hi, Nat.add_comm 1 i, show i < 32 by omega, show i + 1 < 32 by omega]
  rw [hxor]
  obtain hi19 | rfl := Nat.lt_succ_iff_lt_or_eq.1 hi
  · rw [hbelow i hi19, Bool.xor_assoc, Bool.xor_self, Bool.xor_false]
  · rw [htop, BitVec.getLsbD_of_ge raw (19 + 1) (by decide), Bool.xor_false]

/-- The ESC's word is the sum of the symbols, that of nibble `i` shifted by `5 i`. -/
theorem escGcrWord_toNat (c : Config) (f : Frame) : (escGcrWord c f).toNat =
    (gcrSymbolOf c (f.extractLsb' 0 4)).toNat + (gcrSymbolOf c (f.extractLsb' 4 4)).toNat * 2 ^ 5 +
    (gcrSymbolOf c (f.extractLsb' 8 4)).toNat * 2 ^ 10 + (gcrSymbolOf c (f.extractLsb' 12 4)).toNat * 2 ^ 15 := by
  simp only [escGcrWord, toNat_append_eq_add]
  omega

/-- Under a table without duplicates the ESC's word is read back as the frame it was built for. -/
theorem edtFrame_escGcrWord {c : Config} (h : c.gcrTable.toList.Nodup) (f : Frame) :
    edtFrame c (escGcrWord c f) = some f := by
  have hword := escGcrWord_toNat c f
  have h0 := (gcrSymbolOf c (f.extractLsb' 0 4)).isLt
  have h1 := (gcrSymbolOf c (f.extractLsb' 4 4)).isLt
  have h2 := (gcrSymbolOf c (f.extractLsb' 8 4)).isLt
  have h3 := (gcrSymbolOf c (f.extractLsb' 12 4)).isLt
  rw [edtFrame_of_symbols h (g := escGcrWord c f) (n0 := f.extractLsb' 0 4) (n1 := f.extractLsb' 4 4)
    (n2 := f.extractLsb' 8 4) (n3 := f.extractLsb' 12 4) (by omega) (by omega) (by omega) (by omega), joinNibbles_nibbles]

end Sys2Proof.Machine
end

section
/-! SUPPORT. The classifier (41_telemetry R85 to R90): its fields and TLM_CLASSIFY's data as numbers. -/

namespace Sys2Proof.Machine

/-- TLM_CLASSIFY's data: a value that fits below the type in bits 25:0, the type above it, then the result. -/
theorem tlmClassifyData_toNat (r : Res) (k : ReadingType) {v : BitVec 32} (hv : v.toNat < 2 ^ 26) :
    (tlmClassifyData r k v).toNat = (resCode r).toNat * 2 ^ 28 + (readingCode k).toNat * 2 ^ 26 + v.toNat := by
  have hfield : v = (v.setWidth 26).setWidth 32 := by
    rw [← BitVec.toNat_inj, BitVec.toNat_setWidth_of_le (by decide), BitVec.toNat_setWidth, Nat.mod_eq_of_lt hv]
  have happend : tlmClassifyData r k v = (resCode r ++ (readingCode k ++ v.setWidth 26)).setWidth 32 := by
    rw [← shiftLeft_or_eq_append, ← shiftLeft_or_eq_append, ← hfield, ← BitVec.or_assoc]
    rfl
  rw [happend, BitVec.toNat_setWidth_of_le (by decide), toNat_append_eq_add, toNat_append_eq_add, BitVec.toNat_setWidth,
    Nat.mod_eq_of_lt hv, Nat.add_assoc]

/-- The quotient of an eRPM reading fits in its 32 bits. -/
theorem quotient_toNat (r : Nat) : (BitVec.ofNat 32 (60000000 / r)).toNat = 60000000 / r :=
  Nat.mod_eq_of_lt ((Nat.div_le_self 60000000 r).trans_lt (by decide))

theorem erpmFn_value_le (d : Data12) : (erpmFn d).value.toNat ≤ 60000000 := by
  unfold erpmFn
  split_ifs
  · decide
  · decide
  · exact (quotient_toNat _).trans_le (Nat.div_le_self _ _)

/-- Every value CLASSIFY_FN answers fits below the type field of TLM_CLASSIFY's data. -/
theorem classifyFn_value_lt (c : Config) (d : Data12) : (classifyFn c d).value.toNat < 2 ^ 26 := by
  have hvalue := (edtValue d).isLt
  unfold classifyFn
  split
  · simp only [BitVec.toNat_setWidth]; omega
  · simp only [BitVec.toNat_ofNat]; omega
  · simp only [BitVec.toNat_setWidth]; omega
  · decide
  · exact (erpmFn_value_le d).trans_lt (by decide)

theorem erpmRaw_toNat (d : Data12) : erpmRaw d = d.toNat % 512 * 2 ^ (d.toNat / 512) := by
  have htop : d.toNat / 512 % 8 = d.toNat / 512 := by omega
  simp only [erpmRaw, BitVec.extractLsb'_toNat, Nat.shiftRight_eq_div_pow, Nat.shiftLeft_eq, Nat.reducePow, Nat.div_one,
    htop]

theorem edtValue_toNat (d : Data12) : (edtValue d).toNat = d.toNat % 256 := by
  rw [edtValue, BitVec.extractLsb'_toNat, Nat.shiftRight_zero]

/-- ERPM_FN's result, type and value as the number TLM_CLASSIFY answers with (41_telemetry R90). -/
theorem erpmFn_toNat (d : Data12) : (resCode (erpmFn d).res).toNat * 2 ^ 28 +
    (readingCode (erpmFn d).kind).toNat * 2 ^ 26 + (erpmFn d).value.toNat =
    if erpmRaw d = 0xFF80 then 0 else if erpmRaw d = 0 then 5 * 2 ^ 28 else 60000000 / erpmRaw d := by
  unfold erpmFn
  by_cases hsentinel : erpmRaw d = 0xFF80
  · simp only [if_pos hsentinel]; rfl
  by_cases hzero : erpmRaw d = 0
  · simp only [if_neg hsentinel, if_pos hzero]; rfl
  · simp only [if_neg hsentinel, if_neg hzero]
    exact (Nat.zero_add _).trans (quotient_toNat _)

/-- The number TLM_CLASSIFY answers with, from result, type and value. -/
theorem exec_tlmClassify (d : BitVec 12) (s : State) : exec (.tlmClassify d) s = .next { s with
    response := some ⟨.ok, BitVec.ofNat 32 ((resCode (classifyFn s.cfg d).res).toNat * 2 ^ 28 +
      (readingCode (classifyFn s.cfg d).kind).toNat * 2 ^ 26 + (classifyFn s.cfg d).value.toNat)⟩ } :=
  answer_eq_ofNat (tlmClassifyData_toNat _ _ (classifyFn_value_lt s.cfg d)) s

end Sys2Proof.Machine
end

section
/-! SUPPORT. The combined telemetry function (41_telemetry R91): its two cases, when a reading is of type current (R88), and
that every reading the sink accepts is one of its. -/

namespace Sys2Proof.Machine

variable {c : Config}

theorem resCode_toNat_eq_zero {r : Res} : (resCode r).toNat = 0 ↔ r = .ok := by cases r <;> decide

/-- A decode that is OK is classified (41_telemetry R91). -/
theorem tlmFn_of_ok {raw : RxWord} (h : (tlmDecodeFn c raw).1 = .ok) :
    tlmFn c raw = classifyFn c (upper12 (tlmDecodeFn c raw).2) := by
  obtain ⟨f, hf⟩ : ∃ f, tlmDecodeFn c raw = (.ok, f) := ⟨_, Prod.ext h rfl⟩
  simp only [tlmFn, hf]

/-- A decode that is not OK is the result, with no reading (41_telemetry R91). -/
theorem tlmFn_of_not_ok {raw : RxWord} (h : (tlmDecodeFn c raw).1 ≠ .ok) :
    tlmFn c raw = ⟨(tlmDecodeFn c raw).1, .erpm, 0⟩ := by
  unfold tlmFn
  split
  · next f hf => exact absurd (congrArg Prod.fst hf) h
  · next r f hne hf => rw [hf]

theorem erpmFn_kind (d : Data12) : (erpmFn d).kind = .erpm := by
  unfold erpmFn
  split_ifs <;> rfl

/-- Only a type nibble mapped to CURRENT is classified as a current reading (41_telemetry R88). -/
theorem classifyFn_kind_ne_current (hmap : ∀ n : Nibble, edtClassOf c n ≠ .current) (d : Data12) :
    (classifyFn c d).kind ≠ .current := by
  unfold classifyFn
  split
  · exact nofun
  · exact nofun
  · next h => exact absurd h (hmap _)
  · exact nofun
  · rw [erpmFn_kind]; exact nofun

theorem tlmFn_kind_ne_current (hmap : ∀ n : Nibble, edtClassOf c n ≠ .current) (raw : RxWord) :
    (tlmFn c raw).kind ≠ .current := by
  by_cases h : (tlmDecodeFn c raw).1 = .ok
  · rw [tlmFn_of_ok h]
    exact classifyFn_kind_ne_current hmap _
  · rw [tlmFn_of_not_ok h]
    exact nofun

/-- The sink is `old` with readings after it that all satisfy `P`. -/
def SinkExtends (old : List Reading) (P : Reading → Prop) (s : State) : Prop :=
  ∃ new : List Reading, s.sink = old ++ new ∧ ∀ r ∈ new, P r

/-- A completion appends the reading of TLM_FN, or nothing. -/
theorem completed_sinkExtends {old : List Reading} {P : Reading → Prop} {s : State}
    (hP : ∀ (ch : Channel) (raw : RxWord), P ⟨ch, (tlmFn s.cfg raw).kind, (tlmFn s.cfg raw).value⟩)
    (hs : SinkExtends old P s) (h : Held) (raw : RxWord) (m : Motor) : SinkExtends old P (completed h raw m s) := by
  obtain ⟨new, hsink, hnew⟩ := hs
  unfold SinkExtends
  rw [completed_sink]
  split
  · refine ⟨new ++ [_], by rw [hsink, List.append_assoc], List.forall_mem_append.2 ⟨hnew, ?_⟩⟩
    exact List.forall_mem_singleton.2 (hP s.cur raw)
  · exact ⟨new, hsink, hnew⟩

theorem startPhase_sink {s s1 : State} {b : Bool} (h : startPhase s = some (s1, b)) : s1.sink = s.sink := by
  obtain ⟨-, -, m, -, rfl⟩ | ⟨-, -, rfl⟩ := startPhase_eq_some.1 h <;> simp

/-- Only completions write the sink, so what TLM_FN's readings all satisfy, all appended readings satisfy
(42_channel_mux R98). -/
theorem sinkExtends_stepInvariant {old : List Reading} {P : Reading → Prop}
    (hP : ∀ (ch : Channel) (raw : RxWord), P ⟨ch, (tlmFn c raw).kind, (tlmFn c raw).value⟩) :
    StepInvariant fun s => s.cfg = c ∧ SinkExtends old P s where
  move _ _ h := by simpa [SinkExtends] using h
  accept _ _ h := h
  answered _ _ h := h
  throttled _ _ h := h
  commanded _ _ h := h
  started := by
    rintro s s1 b hp ⟨hc, hs⟩
    exact ⟨(startPhase_cfg hp).trans hc, by rwa [SinkExtends, startPhase_sink hp]⟩
  holds _ _ h := h
  completes := by
    rintro s raw rest m h - - ⟨rfl, hs⟩
    exact ⟨completed_cfg .., completed_sinkExtends (s := setRxSlot rest s) hP hs h raw m⟩

end Sys2Proof.Machine
end

section
/-! CERTIFICATE. The statements of 41_telemetry, settled. -/

namespace Sys2Proof.Machine

/-- Settles O19: `INV_DIFF` exists and undoes the differential decoding, the ESC's word holds one symbol for each nibble,
and the decoder reads the four nibbles back. -/
theorem escEncodingLaw : Obligations.EscEncodingLaw := by
  unfold Obligations.EscEncodingLaw
  refine ⟨fun g => ⟨_, isInvDiff_invDiff g⟩, fun g raw => gcrWord_of_isInvDiff, escGcrWord_toNat,
    fun c f raw ⟨_, _, _, hnodup, _⟩ hcrc hraw hne => ?_⟩
  have hne' : raw.setWidth 32 ≠ 0 := fun h => hne (by bv_omega)
  have hframe : edtFrame c (gcrWord (raw.setWidth 32)) = some f := by
    rw [gcrWord_of_isInvDiff hraw, edtFrame_escGcrWord hnodup]
  rw [tlmDecodeFn_of_some hne' hframe, if_pos hcrc]

/-- Settles O13: the table's symbols are the valid ones, each with its own nibble, and the word is GCR_SYMBOL's with
`A = S`. -/
theorem gcrSymbolResult : Obligations.GcrSymbolResult := by
  unfold Obligations.GcrSymbolResult
  refine ⟨fun y s ⟨_, _, _, hnodup, _⟩ => ⟨?_, fun hy => ?_⟩, fun c ⟨_, _, _, hnodup, _⟩ =>
    countP_gcrInv_isSome hnodup, fun y => decode_ofNat_operand rfl (by rfl) rfl (by decide) rfl⟩
  · rintro n rfl
    exact answer_eq_ofNat (by rw [gcrInv_gcrSymbolOf hnodup, gcrSymbolData_some_toNat]) s
  · exact answer_eq_ofNat (by rw [gcrInv_eq_none_iff.2 hy]; rfl) s

/-- Settles O15: each of the four symbols of the GCR word is a nibble's or none's, and the CRC is that of the nibbles; the
word is TLM_DECODE's with `A = W`. -/
theorem tlmDecodeResult : Obligations.TlmDecodeResult := by
  unfold Obligations.TlmDecodeResult
  refine ⟨fun w s ⟨_, _, _, hnodup, _⟩ => ?_,
    fun w => decode_ofNat_operand rfl (by rfl) rfl (Nat.le_refl 32) (BitVec.setWidth_eq w).symm⟩
  simp only [← gcrWord_toNat]
  refine ⟨?_, fun hw => ?_, fun hw n3 n2 n1 n0 h0 h1 h2 h3 => ?_⟩
  · rintro rfl
    exact answer_eq_ofNat (by rw [tlmDecodeFn_zero]; rfl) s
  · rintro ⟨i, hi, hbad⟩
    have hinv : gcrInv s.cfg (gcrSymbolAt (gcrWord w) i) = none :=
      gcrInv_eq_none_iff.2 fun n hn => hbad n (by rw [hn, gcrSymbolAt_toNat])
    exact answer_eq_ofNat (by rw [tlmDecodeFn_of_none hw (edtFrame_eq_none hi hinv)]; rfl) s
  · refine answer_eq_ofNat ?_ s
    rw [tlmDecodeFn_of_some hw (edtFrame_of_symbols hnodup h0 h1 h2 h3), tlmDecodeData_toNat, joinNibbles_toNat]
    simp only [← frameCrcOk_joinNibbles]
    split <;> rfl

/-- Settles O16: in each class the data's three fields are the rule's, and the word is TLM_CLASSIFY's with `A = D`. -/
theorem tlmClassifyResult : Obligations.TlmClassifyResult := by
  unfold Obligations.TlmClassifyResult
  refine ⟨fun d s => ?_, fun d => decode_ofNat_operand rfl (by rfl) rfl (by decide) rfl⟩
  intro x r
  have hx : (edtValue d).toNat = x := edtValue_toNat d
  have hr : erpmRaw d = r := erpmRaw_toNat d
  have hx4 : x / 4 < 2 ^ 32 := by omega
  refine answer_eq_ofNat ?_ s
  rw [tlmClassifyData_toNat _ _ (classifyFn_value_lt s.cfg d)]
  unfold classifyFn
  cases edtClassOf s.cfg (d.extractLsb' 8 4) with
  | temp => simp only [BitVec.toNat_setWidth_of_le, hx, Nat.reduceLeDiff]; rfl
  | volt => simp only [BitVec.toNat_ofNat, hx, Nat.mod_eq_of_lt hx4]; rfl
  | current => simp only [BitVec.toNat_setWidth_of_le, hx, Nat.reduceLeDiff]; rfl
  | unsupported => simp only [resCode, readingCode]; decide
  | erpm => simp only [erpmFn_toNat, hr]

/-- Settles O17: TLM_DECODE's data is the result above the frame, so its two parts say which case of TLM_FN holds and
which frame is classified. -/
theorem combinedTelemetry : Obligations.CombinedTelemetry := by
  unfold Obligations.CombinedTelemetry
  refine fun s raw => ⟨_, rfl, ?_⟩
  rw [tlmDecodeData_result, tlmDecodeData_upper12, ne_eq, resCode_toNat_eq_zero]
  refine ⟨fun hfailed => ?_, fun hok => ?_⟩
  · rw [tlmFn_of_not_ok hfailed]
    exact ⟨rfl, rfl⟩
  · rw [tlmFn_of_ok hok]
    exact exec_tlmClassify _ s

/-- Settles O18: the readings a step appends are TLM_FN's, and one has type current only through a nibble mapped to
CURRENT. -/
theorem currentNeedsTheMap : Obligations.CurrentNeedsTheMap := by
  unfold Obligations.CurrentNeedsTheMap
  refine ⟨by decide, fun s t hmap h => ?_⟩
  have hstart : SinkExtends s.sink (fun r => r.kind ≠ .current) s := ⟨[], (List.append_nil _).symm, nofun⟩
  exact ((sinkExtends_stepInvariant fun _ raw => tlmFn_kind_ne_current hmap raw).step_keeps h ⟨rfl, hstart⟩).2

end Sys2Proof.Machine
end

section
/-! SUPPORT. The start phase (42_channel_mux R96, R100): the channel it serves, and what it writes, when a frame is sent
and when none is. -/

namespace Sys2Proof.Machine

variable {s s1 : State} {b : Bool}

theorem selectNext_cur_eq_servedNext (s : State) : (selectNext s).cur = BitVec.ofNat 8 (servedNext s) := by
  rw [selectNext_cur, servedNext]
  split
  · rfl
  · rw [BitVec.ofNat_toNat, BitVec.setWidth_eq]

/-- The channel served next is the next in the round; with one channel, `cur` is 0 and so is the next. -/
theorem State.Wf.servedNext_eq (h : s.Wf) : servedNext s = (s.cur.toNat + 1) % s.cfg.n.toNat := by
  have hcur := h.cur_lt
  rw [servedNext]
  split
  · rfl
  · have hn : s.cfg.n.toNat = 1 := by omega
    rw [hn, Nat.mod_one]
    omega

theorem State.Wf.servedNext_lt (h : s.Wf) : servedNext s < s.cfg.n.toNat := by
  rw [h.servedNext_eq]
  exact Nat.mod_lt _ (Nat.zero_lt_of_lt h.cur_lt)

/-- The number of the channel served next fits the 8 bits of `cur` (00_scope R9). -/
theorem State.Wf.ofNat_servedNext_toNat (h : s.Wf) : (BitVec.ofNat 8 (servedNext s)).toNat = servedNext s := by
  obtain ⟨⟨-, hle⟩, -⟩ := h.cfg
  rw [BitVec.toNat_ofNat, Nat.mod_eq_of_lt (Nat.lt_of_lt_of_le h.servedNext_lt hle)]

theorem startPhase_cur (h : startPhase s = some (s1, b)) : s1.cur = BitVec.ofNat 8 (servedNext s) := by
  rw [← selectNext_cur_eq_servedNext]
  obtain ⟨-, -, m, -, rfl⟩ | ⟨-, -, rfl⟩ := startPhase_eq_some.1 h <;> rfl

/-- With the transmit slot free, the served Motor's frame is pushed and its repeat counted down. -/
theorem startPhase_of_free (h : startPhase s = some (s1, b)) (hf : engTxFree s = true) :
    ∃ m, s.motors[s1.cur.toNat]? = some m ∧ s1.motors = s.motors.set s1.cur.toNat m.countDown ∧
      s1.engine = { s.engine with txSlot := s.engine.txSlot ++ [⟨m.frame, gapOfSpeed s.cfg⟩] } := by
  obtain ⟨-, -, m, hm, rfl⟩ | ⟨hf', -⟩ := startPhase_eq_some.1 h
  · exact ⟨m, hm, by simp, by simp⟩
  · exact absurd (hf.symm.trans hf') nofun

/-- With the transmit slot not free, no Motor and nothing of the engine is written. -/
theorem startPhase_of_not_free (h : startPhase s = some (s1, b)) (hf : engTxFree s = false) :
    s1.motors = s.motors ∧ s1.engine = s.engine := by
  obtain ⟨hf', -⟩ | ⟨-, -, rfl⟩ := startPhase_eq_some.1 h
  · exact absurd (hf.symm.trans hf') nofun
  · exact ⟨by simp, by simp⟩

end Sys2Proof.Machine
end

section
/-! SUPPORT. The service order (42_channel_mux R101): which channel each step of a run leaves served. -/

namespace Sys2Proof.Machine

variable {s t : State}

/-- An operation with a start phase serves the next channel, whether or not its complete part follows at once. -/
theorem exec_cur_of_start {i : Instr} (hi : i = .tickStart ∨ i = .tick) (h : exec i s = .next t) :
    t.cur = BitVec.ofNat 8 (servedNext s) := by
  obtain rfl | rfl := hi
  · obtain ⟨-, s1, b, hp, rfl⟩ := execTickStart_eq_next.1 h
    exact startPhase_cur (s1 := s1) hp
  · obtain ⟨-, s1, b, hp, hc⟩ := execTick_eq_next.1 h
    obtain ⟨hcur, -⟩ := completeOrHold_frame hc
    exact hcur.trans (startPhase_cur hp)

theorem startsTick_eq_true : startsTick s = true ↔ ∃ i, accepted s = some i ∧ (i = .tickStart ∨ i = .tick) := by
  refine ⟨fun h => ?_, fun ⟨i, ha, hi⟩ => startsTick_of_accepted ha hi⟩
  simp only [startsTick, Bool.or_eq_true, beq_iff_eq] at h
  exact h.elim (fun ha => ⟨_, ha, .inl rfl⟩) fun ha => ⟨_, ha, .inr rfl⟩

theorem step_cur_of_startsTick (h : step s = .next t) (hst : startsTick s = true) :
    t.cur = BitVec.ofNat 8 (servedNext s) := by
  obtain ⟨i, ha, hi⟩ := startsTick_eq_true.1 hst
  obtain ⟨τ, rest, -, hx⟩ := step_of_accepted ha h
  exact exec_cur_of_start (s := sample τ (setInputs rest s)) hi hx

theorem step_cur_of_not_startsTick (h : step s = .next t) (hst : startsTick s = false) : t.cur = s.cur := by
  obtain ⟨hcur, -⟩ | ⟨hst', -⟩ := step_selection h
  · exact hcur
  · exact absurd (hst.symm.trans hst') nofun

/-- Tick `k` of a run, counted from 0, serves the channel `k + 1` places after `cur` in the round. -/
theorem servedIn_getElem? {run : List State} (hwf : s.Wf) (hrun : IsRun s run) {k x : Nat}
    (hx : (servedIn s run)[k]? = some x) : x = (s.cur.toNat + (k + 1)) % s.cfg.n.toNat := by
  induction run generalizing s k with
  | nil => cases hx
  | cons t rest ih =>
    obtain ⟨hstep, hrest⟩ := hrun
    have hwf' : t.Wf := wf_stepInvariant.step_keeps hstep hwf
    have ih := @ih t hwf' hrest
    rw [step_cfg hstep] at ih
    cases hst : startsTick s with
    | false =>
      simp only [servedIn, hst, Bool.false_eq_true, if_false, List.nil_append] at hx
      rw [ih hx, step_cur_of_not_startsTick hstep hst]
    | true =>
      have hcur : t.cur.toNat = (s.cur.toNat + 1) % s.cfg.n.toNat := by
        rw [step_cur_of_startsTick hstep hst, hwf.ofNat_servedNext_toNat, hwf.servedNext_eq]
      simp only [servedIn, hst, if_true, List.singleton_append] at hx
      cases k with
      | zero => rw [← hcur]; simpa using hx.symm
      | succ k =>
        rw [ih (by simpa using hx), hcur, Nat.mod_add_mod, Nat.add_assoc, Nat.add_comm 1]

/-- Of any `n` consecutive numbers exactly one is `c` modulo `n`. -/
theorem existsUnique_mod_eq {n c : Nat} (a : Nat) (hc : c < n) : ∃! j, (a ≤ j ∧ j < a + n) ∧ j % n = c := by
  have hmem : c ∈ (Finset.Ico a (a + n)).image (· % n) := by rwa [Nat.image_Ico_mod, Finset.mem_range]
  obtain ⟨j, hj, hjc⟩ := Finset.mem_image.1 hmem
  exact ⟨j, ⟨Finset.mem_Ico.1 hj, hjc⟩, fun i ⟨hi, hic⟩ =>
    Nat.mod_injOn_Ico a n (Finset.mem_coe.2 (Finset.mem_Ico.2 hi)) (Finset.mem_coe.2 hj) (hic.trans hjc.symm)⟩

/-- Construction within the ranges meets the invariant, whatever the engine's slots hold (70_reset_and_hazards R131). -/
theorem construct_wf {cfg : Config} {eng : Engine} (hcfg : cfg.Wf) (heng : eng.Wf cfg) (now0 : Micros) :
    (State.construct cfg eng now0).Wf where
  cfg := hcfg
  motors_length := List.length_replicate
  motors := construct_forall_motors
    { frame_crc := frameCrcOk_encodeFrame 0 false
      fallback_crc := frameCrcOk_encodeFrame 0 false
      repeats_zero := fun _ => rfl
      repeats_le := Nat.zero_le _
      good_lt := Nat.two_pow_pos _
      badGcr_lt := Nat.two_pow_pos _
      badCrc_lt := Nat.two_pow_pos _
      badType_lt := Nat.two_pow_pos _
      timeouts_lt := Nat.two_pow_pos _ } cfg eng now0
  cur_lt := hcfg.1.1
  engEn := rfl
  engPin := rfl
  lastCmd_le := Nat.le_refl _
  engine := heng
  held := nofun

end Sys2Proof.Machine
end

section
/-! SUPPORT. What a tick does to the Motor file: the served Motor's countdown in its start part, one counter of the served
Motor in its complete part, and every Motor only where the watchdog fires (42_channel_mux R96, R98, R103). -/

namespace Sys2Proof.Machine

variable {s t s1 : State} {b : Bool}

theorem isIdle_completed {hd : Held} {raw : RxWord} {m : Motor} : isIdle (completed hd raw m s) = isIdle s := by
  simp only [isIdle, completed_cfg, completed_now, completed_lastCmd]

/-- A completion that pops a word and does not fire the watchdog writes one counter of the served Motor. -/
theorem completed_motors_of_not_fired {hd : Held} {raw : RxWord} {rest : List RxWord} {m : Motor}
    (hr : s.engine.rxSlot = raw :: rest) (hw : watchdogFiredIn s (completed hd raw m (setRxSlot rest s)) = false) :
    (completed hd raw m (setRxSlot rest s)).motors =
      s.motors.set s.cur.toNat (m.count s.cfg.cntWidth (tlmFn s.cfg raw).res) := by
  have hpop : poppedIn s (completed hd raw m (setRxSlot rest s)) = true := by simp [poppedIn, hr]
  have hidle : isIdle (setRxSlot rest s) = false := by
    rwa [watchdogFiredIn, hpop, Bool.true_and, isIdle_completed] at hw
  rw [completed_motors, hidle]
  rfl

/-- A completion that does not fire the watchdog writes nothing of the Motor file, or one counter of the served Motor. -/
theorem completeOrHold_motors {hd : Held} (h : completeOrHold hd s = .next t) (hw : watchdogFiredIn s t = false) :
    t.motors = s.motors ∨ ∃ m r, s.motors[s.cur.toNat]? = some m ∧
      t.motors = s.motors.set s.cur.toNat (m.count s.cfg.cntWidth r) := by
  obtain ⟨-, rfl⟩ | ⟨raw, rest, m, hr, hm, rfl⟩ := completeOrHold_eq_next.1 h
  · exact .inl rfl
  · exact .inr ⟨m, _, hm, completed_motors_of_not_fired hr hw⟩

theorem completeOrHold_txSlot {hd : Held} (h : completeOrHold hd s = .next t) : t.engine.txSlot = s.engine.txSlot := by
  obtain he | ⟨w, rest, -, he⟩ := completeOrHold_engine h <;> rw [he]

/-- The watchdog fires in the complete part of a TICK exactly when it fires in the TICK. -/
theorem watchdogFiredIn_of_startPhase (h : startPhase s = some (s1, b)) (t : State) :
    watchdogFiredIn s1 t = watchdogFiredIn s t := by
  simp only [watchdogFiredIn, poppedIn, startPhase_rxSlot h]

end Sys2Proof.Machine
end

section
/-! SUPPORT. What a Motor will send: its frame, its fallback and the repeats it owes, channel by channel along a step
(42_channel_mux R96, R102). -/

namespace Sys2Proof.Machine

variable {s t s1 : State} {b : Bool} {c : Channel}

/-- Frame, fallback and repeats: the part of a Motor record that decides what its channel sends. -/
def Motor.sending (m : Motor) : Frame × Frame × BitVec 8 := (m.frame, m.fallback, m.repeats)

/-- What channel `c` will send. -/
def sendingAt (c : Channel) (s : State) : Option (Frame × Frame × BitVec 8) := s.motors[c.toNat]?.map Motor.sending

@[simp] theorem Motor.sending_count (m : Motor) (w : Nat) (r : Res) : (m.count w r).sending = m.sending := by
  simp [Motor.sending]

theorem sendingAt_congr (h : t.motors = s.motors) : sendingAt c t = sendingAt c s := by
  rw [sendingAt, sendingAt, h]

/-- A write to another channel's Motor, or one that keeps the Motor's sending, keeps what `c` will send. -/
theorem sendingAt_of_set {k : Channel} {m x : Motor} (hk : k = c → s.motors[k.toNat]? = some m ∧ x.sending = m.sending)
    (h : t.motors = s.motors.set k.toNat x) : sendingAt c t = sendingAt c s := by
  rw [sendingAt, sendingAt, h]
  by_cases hkc : k = c
  · obtain ⟨hm, hx⟩ := hk hkc
    obtain ⟨hlt, -⟩ := List.getElem?_eq_some_iff.1 hm
    subst hkc
    rw [List.getElem?_set_self hlt, hm, Option.map_some, Option.map_some, hx]
  · rw [List.getElem?_set_ne fun he => hkc (BitVec.eq_of_toNat_eq he)]

theorem completeOrHold_sendingAt {hd : Held} (h : completeOrHold hd s = .next t) (hw : watchdogFiredIn s t = false) :
    sendingAt c t = sendingAt c s := by
  obtain he | ⟨m, r, hm, he⟩ := completeOrHold_motors h hw
  · exact sendingAt_congr he
  · exact sendingAt_of_set (fun _ => ⟨hm, m.sending_count _ r⟩) he

/-- A start phase keeps what `c` will send, unless it sends on `c`. -/
theorem startPhase_sendingAt (h : startPhase s = some (s1, b)) (hsent : ¬ (s1.cur = c ∧ engTxFree s = true)) :
    sendingAt c s1 = sendingAt c s := by
  cases hf : engTxFree s with
  | false =>
    obtain ⟨hmotors, -⟩ := startPhase_of_not_free h hf
    exact sendingAt_congr hmotors
  | true =>
    obtain ⟨m, -, hmotors, -⟩ := startPhase_of_free h hf
    exact sendingAt_of_set (m := m) (fun hc => absurd ⟨hc, hf⟩ hsent) hmotors

/-- An operation that is no THROTTLE or COMMAND on `c`, sends nothing on `c` and does not fire the watchdog keeps what `c`
will send. -/
theorem exec_sendingAt {i : Instr} (h : exec i s = .next t) (hv : ∀ v, i ≠ .throttle c v) (hk : ∀ k, i ≠ .command c k)
    (hw : watchdogFiredIn s t = false)
    (hsent : ¬ ((i = .tickStart ∨ i = .tick) ∧ t.cur = c ∧ engTxFree s = true)) : sendingAt c t = sendingAt c s := by
  obtain ⟨-, -, -, st, d, rfl⟩ | ⟨c', v, m, rfl, -, -, rfl⟩ | ⟨c', k, m, rfl, -, -, rfl⟩ | ⟨rfl, -, s1, b, hp, rfl⟩ |
    ⟨-, -, hc⟩ | ⟨rfl, -, s1, b, hp, hc⟩ := exec_cases h
  · rfl
  · exact sendingAt_of_set (m := m) (fun hc => absurd (hc ▸ rfl) (hv v)) rfl
  · exact sendingAt_of_set (m := m) (fun hc => absurd (hc ▸ rfl) (hk k)) rfl
  · exact startPhase_sendingAt (s1 := s1) hp fun hs => hsent ⟨.inl rfl, hs⟩
  · exact completeOrHold_sendingAt hc hw
  · obtain ⟨hcur, -⟩ := completeOrHold_frame hc
    rw [completeOrHold_sendingAt hc ((watchdogFiredIn_of_startPhase hp t).trans hw)]
    exact startPhase_sendingAt hp fun hs => hsent ⟨.inr rfl, hcur.trans hs.1, hs.2⟩

/-- A step that accepts no THROTTLE or COMMAND on `c`, sends nothing on `c` and does not fire the watchdog keeps what `c`
will send. -/
theorem step_sendingAt (h : step s = .next t) (hcmd : noCommandOn c s) (hw : watchdogFiredIn s t = false)
    (hsent : ¬ (startsTick s = true ∧ t.cur = c ∧ engTxFree s = true)) : sendingAt c t = sendingAt c s := by
  obtain ⟨-, rfl | ⟨m, xs, rfl⟩ | ⟨hd, raw, rest, m, -, hr, hm, rfl⟩⟩ | ⟨i, w, τ, rest, -, -, -, -, hT, hx⟩ := step_cases h
  · rfl
  · exact sendingAt_congr (by simp)
  · exact sendingAt_of_set (fun _ => ⟨hm, m.sending_count _ _⟩) (completed_motors_of_not_fired hr hw)
  · have ha := accepted_of_turn hT
    obtain ⟨hv, hk⟩ := hcmd
    exact exec_sendingAt (s := sample τ (setInputs rest s)) hx (fun v hi => hv v (hi ▸ ha)) (fun k hi => hk k (hi ▸ ha)) hw
      fun ⟨hi, hs⟩ => hsent ⟨startsTick_of_accepted ha hi, hs⟩

/-- A start phase that finds the transmit slot free sends the served Motor's frame and counts its repeat down. -/
theorem startPhase_sent (h : startPhase s = some (s1, b)) (hf : engTxFree s = true) :
    ∃ m, s.motors[s1.cur.toNat]? = some m ∧ pushedIn s s1 = [⟨m.frame, gapOfSpeed s.cfg⟩] ∧
      sendingAt s1.cur s1 = some m.countDown.sending := by
  obtain ⟨m, hm, hmotors, hengine⟩ := startPhase_of_free h hf
  obtain ⟨hlt, -⟩ := List.getElem?_eq_some_iff.1 hm
  refine ⟨m, hm, ?_, ?_⟩
  · rw [pushedIn, hengine, List.drop_left]
  · rw [sendingAt, hmotors, List.getElem?_set_self hlt, Option.map_some]

/-- So does the operation: the complete part of a TICK neither selects nor sends, and without the watchdog it counts only. -/
theorem exec_sent {i : Instr} (hi : i = .tickStart ∨ i = .tick) (h : exec i s = .next t)
    (hw : watchdogFiredIn s t = false) (hf : engTxFree s = true) :
    ∃ m, s.motors[t.cur.toNat]? = some m ∧ pushedIn s t = [⟨m.frame, gapOfSpeed s.cfg⟩] ∧
      sendingAt t.cur t = some m.countDown.sending := by
  obtain rfl | rfl := hi
  · obtain ⟨-, s1, b, hp, rfl⟩ := execTickStart_eq_next.1 h
    exact startPhase_sent (s1 := s1) hp hf
  · obtain ⟨-, s1, b, hp, hc⟩ := execTick_eq_next.1 h
    obtain ⟨hcur, -⟩ := completeOrHold_frame hc
    rw [hcur, completeOrHold_sendingAt hc ((watchdogFiredIn_of_startPhase hp t).trans hw), pushedIn,
      completeOrHold_txSlot hc]
    exact startPhase_sent hp hf

theorem step_sent (h : step s = .next t) (hst : startsTick s = true) (hw : watchdogFiredIn s t = false)
    (hf : engTxFree s = true) :
    ∃ m, s.motors[t.cur.toNat]? = some m ∧ pushedIn s t = [⟨m.frame, gapOfSpeed s.cfg⟩] ∧
      sendingAt t.cur t = some m.countDown.sending := by
  obtain ⟨i, ha, hi⟩ := startsTick_eq_true.1 hst
  obtain ⟨τ, rest, -, hx⟩ := step_of_accepted ha h
  exact exec_sent (s := sample τ (setInputs rest s)) hi hx hw hf

end Sys2Proof.Machine
end

section
/-! SUPPORT. The command repeat law (42_channel_mux R102): what a Motor that owes `r` sendings of a frame sends at its next
services. -/

namespace Sys2Proof.Machine

variable {s t : State} {c : Channel} {f fb : Frame} {r : BitVec 8} {m : Motor}

/-- The sending of a Motor that owes `r` sendings of `f` and then reverts to `fb` for good. -/
def owing (f fb : Frame) (r : BitVec 8) : Frame × Frame × BitVec 8 := (if r = 0 then fb else f, fb, r)

theorem Motor.frame_of_owing (h : m.sending = owing f fb r) : m.frame = if r = 0 then fb else f :=
  congrArg Prod.fst h

/-- Each sending pays one repeat, until none is owed. -/
theorem Motor.countDown_of_owing (h : m.sending = owing f fb r) :
    m.countDown.sending = owing f fb (if r = 0 then 0 else r - 1) := by
  simp only [Motor.sending, owing, Prod.mk.injEq] at h
  obtain ⟨hframe, hfallback, rfl⟩ := h
  unfold Motor.countDown
  split_ifs with h0 h1
  · simp [Motor.sending, owing, hframe, hfallback, h0]
  · simp [Motor.sending, owing, hfallback, h1]
  · have hne : m.repeats - 1 ≠ 0 := fun h => h1 (sub_eq_zero.1 h)
    simp only [Motor.sending, owing, hframe, hfallback, if_neg h0, if_neg hne]

/-- `n + 1` frames of `r` times `x`, then `y`: the first, and the `n` frames that follow with one `x` less. -/
theorem take_replicate_append_succ {α : Type} (x y : α) (r n : Nat) :
    (List.replicate r x ++ List.replicate (n + 1) y).take (n + 1) =
      (if r = 0 then y else x) :: (List.replicate (r - 1) x ++ List.replicate n y).take n := by
  cases r with
  | zero => simp [List.replicate_succ]
  | succ r =>
    rw [List.replicate_succ, List.cons_append, List.take_succ_cons, if_neg (Nat.succ_ne_zero r), Nat.add_sub_cancel]
    simp [List.take_append, List.take_replicate, show n ≤ n + 1 + r by omega]

/-- In a run with no THROTTLE or COMMAND on `c`, no firing of the watchdog and a free transmit slot at each service of `c`,
a channel that owes `r` sendings of `f` sends them first, and then its fallback. -/
theorem servicesOf_of_owing {run : List State} (hrun : IsRun s run)
    (hquiet : ∀ p ∈ stepsOf s run, noCommandOn c p.1 ∧ watchdogFiredIn p.1 p.2 = false)
    (hfree : ∀ p ∈ stepsOf s run, startsTick p.1 = true → p.2.cur = c → engTxFree p.1 = true)
    (ho : sendingAt c s = some (owing f fb r)) :
    servicesOf c.toNat s run = (List.replicate r.toNat (some f) ++
      List.replicate (servicesOf c.toNat s run).length (some fb)).take (servicesOf c.toNat s run).length := by
  induction run generalizing s r with
  | nil => rfl
  | cons t rest ih =>
    obtain ⟨hstep, hrest⟩ := hrun
    obtain ⟨⟨hcmd, hw⟩, hquiet'⟩ := List.forall_mem_cons.1 hquiet
    obtain ⟨hfree0, hfree'⟩ := List.forall_mem_cons.1 hfree
    have ih {r : BitVec 8} := @ih t r hrest hquiet' hfree'
    by_cases hserved : startsTick s = true ∧ t.cur = c
    · obtain ⟨hst, rfl⟩ := hserved
      obtain ⟨m, hm, hpush, hsend⟩ := step_sent hstep hst hw (hfree0 hst rfl)
      have hm' : m.sending = owing f fb r := by simpa [sendingAt, hm] using ho
      have hr : (if r = 0 then 0 else r - 1).toNat = r.toNat - 1 := by split_ifs <;> bv_omega
      rw [Motor.countDown_of_owing hm'] at hsend
      have hhead : some m.frame = if r.toNat = 0 then some fb else some f := by
        rw [Motor.frame_of_owing hm', apply_ite some]
        simp only [← BitVec.toNat_inj, BitVec.ofNat_eq_ofNat, BitVec.toNat_ofNat, Nat.zero_mod]
      have hcons : servicesOf t.cur.toNat s (t :: rest) = some m.frame :: servicesOf t.cur.toNat t rest := by
        simp [servicesOf, hst, hpush]
      rw [hcons, List.length_cons, take_replicate_append_succ, ← hhead, ← hr, ← ih hsend]
    · have hsame := step_sendingAt hstep hcmd hw fun ⟨hst, hcur, _⟩ => hserved ⟨hst, hcur⟩
      have hskip : servicesOf c.toNat s (t :: rest) = servicesOf c.toNat t rest := by
        simp only [servicesOf, Bool.and_eq_true, beq_iff_eq, BitVec.toNat_inj, if_neg hserved, List.nil_append]
      rw [hskip]
      exact ih (hsame.trans ho)

/-- COMMAND on a channel of the Controller leaves it owing REPEAT_COUNT sendings of the command's frame. -/
theorem sendingAt_of_execCommand {k : BitVec 6} (hrep : s.cfg.repeatCount ≠ 0) (hc : c.toNat < s.cfg.n.toNat)
    (hm : s.motors[c.toNat]? = some m) (h : execCommand c k s = .next t) :
    sendingAt c t = some (owing (encodeFrame (k.setWidth 11) true) m.fallback s.cfg.repeatCount) := by
  obtain ⟨-, ⟨-, m', hm', rfl⟩ | ⟨hc', -⟩⟩ := execCommand_eq_next.1 h
  · obtain rfl : m = m' := Option.some.inj (hm.symm.trans hm')
    obtain ⟨hlt, -⟩ := List.getElem?_eq_some_iff.1 hm
    rw [sendingAt, respond_motors, touchLastCmd_motors, setMotor_motors, List.getElem?_set_self hlt, owing, if_neg hrep]
    rfl
  · exact absurd hc hc'

end Sys2Proof.Machine
end

section
/-! SUPPORT. The response data of the ticks as numbers (42_channel_mux R96, R98, R99). -/

namespace Sys2Proof.Machine

theorem tickStartData_toNat (sent : Bool) (c : Channel) :
    (tickStartData sent c).toNat = sent.toNat * 2 ^ 8 + c.toNat := by
  rw [tickStartData, shiftLeft_or_eq_append, BitVec.toNat_setWidth_of_le (by decide), toNat_append_eq_add,
    BitVec.toNat_ofBool]

/-- TICK_COMPLETE's data as fields: wd in bit 19, the result in bits 18:16, `cur` in the low 8. -/
theorem tickCompleteData_eq_append (wd : Bool) (r : Res) (c : Channel) :
    tickCompleteData wd r c = (BitVec.ofBool wd ++ (resCode r ++ c.setWidth 16)).setWidth 32 := by
  rw [← shiftLeft_or_eq_append, ← shiftLeft_or_eq_append, BitVec.setWidth_setWidth (by decide), ← BitVec.or_assoc]
  rfl

theorem tickCompleteData_toNat (wd : Bool) (r : Res) (c : Channel) :
    (tickCompleteData wd r c).toNat = (if wd then 2 ^ 19 else 0) + (resCode r).toNat * 2 ^ 16 + c.toNat := by
  have hwd : wd.toNat * 2 ^ 19 = if wd then 2 ^ 19 else 0 := by cases wd <;> rfl
  rw [← hwd, tickCompleteData_eq_append, BitVec.toNat_setWidth_of_le (by decide), toNat_append_eq_add, toNat_append_eq_add,
    BitVec.toNat_setWidth_of_le (by decide), BitVec.toNat_ofBool, Nat.add_assoc]

/-- TICK's data: bits 19:16 of the complete part's, bits 8:0 of the start part's. -/
theorem tickData_eq_append (sd cd : RespData) :
    tickData sd cd = (cd.extractLsb' 16 4 ++ (sd.extractLsb' 0 9).setWidth 16).setWidth 32 := by
  rw [tickData, BitVec.or_assoc, shiftLeft_or_eq_append,
    BitVec.extractLsb'_append_extractLsb'_eq_extractLsb' (start₂ := 8) (start₁ := 0) rfl, ← shiftLeft_or_eq_append,
    BitVec.setWidth_setWidth (by decide)]

theorem tickData_toNat (sd cd : RespData) :
    (tickData sd cd).toNat = cd.toNat / 2 ^ 16 % 2 ^ 4 * 2 ^ 16 + sd.toNat % 2 ^ 9 := by
  rw [tickData_eq_append, BitVec.toNat_setWidth_of_le (by decide), toNat_append_eq_add,
    BitVec.toNat_setWidth_of_le (by decide), BitVec.extractLsb'_toNat, BitVec.extractLsb'_toNat,
    Nat.shiftRight_eq_div_pow, Nat.shiftRight_zero]

/-- Data given by its value. -/
theorem eq_ofNat_of_toNat {d : RespData} {n : Nat} (h : d.toNat = n) : d = BitVec.ofNat 32 n := by
  rw [← h, BitVec.ofNat_toNat, BitVec.setWidth_eq]

end Sys2Proof.Machine
end

section
/-! SUPPORT. The ticks in full (42_channel_mux R95 to R99): the whole state a start phase and a completion leave, and the
refusals of the wrong phase. -/

namespace Sys2Proof.Machine

variable {s t : State}

/-- Under the invariant the selection of the next channel writes `cur` and `eng_pin` alone (42_channel_mux R96, R100). -/
theorem State.Wf.selectNext_eq (h : s.Wf) : selectNext s = { s with
    cur := BitVec.ofNat 8 (servedNext s), engPin := s.cfg.pinBase + BitVec.ofNat 8 (servedNext s) } := by
  have hwf := selectNext_wf h
  have hcur := selectNext_cur_eq_servedNext s
  have hpin : (selectNext s).engPin = s.cfg.pinBase + BitVec.ofNat 8 (servedNext s) := by
    rw [← hcur, ← BitVec.toNat_inj, hwf.engPin, selectNext_cfg]
    have hlt := hwf.cur_lt
    rw [selectNext_cfg] at hlt
    exact (pinOf_toNat h.cfg hlt).symm
  have hen : (selectNext s).engEn = s.engEn := hwf.engEn.trans h.engEn.symm
  ext1 <;> simp [hcur, hpin, hen]

/-- One counter of the record is incremented, the result's own (60_exceptions R114). -/
theorem Motor.count_eq (m : Motor) (w : Nat) (r : Res) : m.count w r = { m with
    good := if r = .ok then (m.good + 1) % 2 ^ w else m.good,
    timeouts := if r = .timeout then (m.timeouts + 1) % 2 ^ w else m.timeouts,
    badGcr := if r = .badGcr then (m.badGcr + 1) % 2 ^ w else m.badGcr,
    badCrc := if r = .badCrc then (m.badCrc + 1) % 2 ^ w else m.badCrc,
    badType := if r = .unsupported ∨ r = .zeroErpm then (m.badType + 1) % 2 ^ w else m.badType } := by
  cases r <;> rfl

theorem exec_tickStart_of_started (h : s.phase = .started) : exec .tickStart s = .refused .wrongPhase :=
  if_neg (by rw [h]; nofun)

theorem exec_tickComplete_of_idle (h : s.phase = .idle) : exec .tickComplete s = .refused .wrongPhase :=
  if_neg (by rw [h]; nofun)

theorem exec_tick_of_started (h : s.phase = .started) : exec .tick s = .refused .wrongPhase :=
  if_neg (by rw [h]; nofun)

/-- In phase STARTED, TICK_COMPLETE is a completion. -/
theorem exec_tickComplete_of_started (h : s.phase = .started) : exec .tickComplete s = completeOrHold .complete s :=
  if_pos h

theorem completeOrHold_of_no_word {h : Held} (hr : s.engine.rxSlot = []) :
    completeOrHold h s = .next (setHeld (some h) s) :=
  completeOrHold_eq_next.2 (.inl ⟨hr, rfl⟩)

theorem completeOrHold_of_word {h : Held} {raw : RxWord} {rest : List RxWord} {m : Motor}
    (hr : s.engine.rxSlot = raw :: rest) (hm : s.motors[s.cur.toNat]? = some m) :
    completeOrHold h s = .next (completed h raw m (setRxSlot rest s)) :=
  completeOrHold_eq_next.2 (.inr ⟨raw, rest, m, hr, hm, rfl⟩)

/-- The forced record in the rule's own number for `NEUTRAL` (44_watchdog_stats R108). -/
theorem Motor.forced_eq : Motor.forced = fun m => { m with frame := 0x000F, fallback := 0x000F, repeats := 0 } := by
  funext m
  rw [Motor.forced, neutral_eq]

/-- The whole state a completion leaves when the word is popped (42_channel_mux R98). -/
theorem completed_eq (h : Held) (raw : RxWord) (m : Motor) (s : State) : completed h raw m s = { s with
    sink := if (tlmFn s.cfg raw).res = .ok then s.sink ++ [⟨s.cur, (tlmFn s.cfg raw).kind, (tlmFn s.cfg raw).value⟩]
      else s.sink
    motors := if isIdle s then (s.motors.set s.cur.toNat (m.count s.cfg.cntWidth (tlmFn s.cfg raw).res)).map Motor.forced
      else s.motors.set s.cur.toNat (m.count s.cfg.cntWidth (tlmFn s.cfg raw).res)
    phase := .idle
    held := none
    response := some ⟨.ok, heldData h (tickCompleteData (isIdle s) (tlmFn s.cfg raw).res s.cur)⟩ } := by
  ext1 <;> simp [completed_motors, completed_sink]

theorem setRxSlot_respond (ws : List RxWord) (st : Status) (d : RespData) (s : State) :
    setRxSlot ws (respond st d s) = respond st d (setRxSlot ws s) := rfl

/-- A completion does not read the response port, and overwrites it. -/
theorem completed_respond (h : Held) (raw : RxWord) (m : Motor) (st : Status) (d : RespData) (s : State) :
    completed h raw m (respond st d s) = completed h raw m s := by
  rw [completed_eq, completed_eq]
  rfl

/-- A TICK completes as TICK_COMPLETE does, but for the data of its response (42_channel_mux R99). -/
theorem completed_tick (d : RespData) (raw : RxWord) (m : Motor) (s : State) :
    completed (.tick d) raw m s = { completed .complete raw m s with response := some ⟨.ok,
      tickData d (tickCompleteData (isIdle s) (tlmFn s.cfg raw).res s.cur)⟩ } := rfl

/-- An operation that is no tick does not change the phase. -/
theorem exec_phase_of_not_tick {i : Instr} (hs : i ≠ .tickStart) (hc : i ≠ .tickComplete) (ht : i ≠ .tick)
    (h : exec i s = .next t) : t.phase = s.phase := by
  obtain ⟨-, -, -, st, d, rfl⟩ | ⟨c, v, m, -, -, -, rfl⟩ | ⟨c, k, m, -, -, -, rfl⟩ | ⟨rfl, -⟩ | ⟨rfl, -⟩ | ⟨rfl, -⟩ :=
    exec_cases h
  · rfl
  · rfl
  · rfl
  · exact absurd rfl hs
  · exact absurd rfl hc
  · exact absurd rfl ht

end Sys2Proof.Machine
end

section
/-! SUPPORT. What no tick writes, whatever the watchdog does, and the Motors no tick writes (42_channel_mux R103). -/

namespace Sys2Proof.Machine

variable {s t u s1 : State} {b : Bool}

/-- The configuration, `last_cmd`, the time, the inputs, the number of Motors, the wire and the engine's report, the same in
both states. -/
def SameBesideTick (s t : State) : Prop :=
  t.cfg = s.cfg ∧ t.lastCmd = s.lastCmd ∧ t.now = s.now ∧ t.inputs = s.inputs ∧
    t.motors.length = s.motors.length ∧ t.engine.wire = s.engine.wire ∧ t.engine.txReport = s.engine.txReport

theorem SameBesideTick.trans (h : SameBesideTick s t) (h' : SameBesideTick t u) : SameBesideTick s u := by
  obtain ⟨hcfg, hlast, hnow, hin, hlen, hwire, hrep⟩ := h
  obtain ⟨hcfg', hlast', hnow', hin', hlen', hwire', hrep'⟩ := h'
  exact ⟨hcfg'.trans hcfg, hlast'.trans hlast, hnow'.trans hnow, hin'.trans hin, hlen'.trans hlen, hwire'.trans hwire,
    hrep'.trans hrep⟩

theorem startPhase_sameBesideTick (h : startPhase s = some (s1, b)) : SameBesideTick s s1 := by
  obtain ⟨-, -, m, -, rfl⟩ | ⟨-, -, rfl⟩ := startPhase_eq_some.1 h <;> simp [SameBesideTick]

theorem completeOrHold_sameBesideTick {hd : Held} (h : completeOrHold hd s = .next t) : SameBesideTick s t := by
  obtain ⟨-, rfl⟩ | ⟨raw, rest, m, -, -, rfl⟩ := completeOrHold_eq_next.1 h
  · simp [SameBesideTick]
  · have hlen : (completed hd raw m (setRxSlot rest s)).motors.length = s.motors.length := by
      rw [completed_motors]
      split <;> simp
    simp [SameBesideTick, hlen]

theorem startPhase_getElem?_motors (h : startPhase s = some (s1, b)) {j : Nat} (hj : j ≠ s1.cur.toNat) :
    s1.motors[j]? = s.motors[j]? := by
  cases hf : engTxFree s with
  | true =>
    obtain ⟨m, -, hmotors, -⟩ := startPhase_of_free h hf
    rw [hmotors, List.getElem?_set_ne hj.symm]
  | false =>
    obtain ⟨hmotors, -⟩ := startPhase_of_not_free h hf
    rw [hmotors]

theorem completeOrHold_getElem?_motors {hd : Held} (h : completeOrHold hd s = .next t)
    (hw : watchdogFiredIn s t = false) {j : Nat} (hj : j ≠ s.cur.toNat) : t.motors[j]? = s.motors[j]? := by
  obtain he | ⟨m, r, -, he⟩ := completeOrHold_motors h hw
  · rw [he]
  · rw [he, List.getElem?_set_ne hj.symm]

/-- A tick is a start phase, a completion, or one after the other: what each keeps, the tick keeps. -/
theorem exec_tick_frame {i : Instr} (hi : i = .tickStart ∨ i = .tickComplete ∨ i = .tick) (h : exec i s = .next t) :
    (watchdogFiredIn s t = false → ∀ j, j ≠ t.cur.toNat → t.motors[j]? = s.motors[j]?) ∧ SameBesideTick s t := by
  obtain rfl | rfl | rfl := hi
  · obtain ⟨-, s1, b, hp, rfl⟩ := execTickStart_eq_next.1 h
    exact ⟨fun _ j hj => startPhase_getElem?_motors (s1 := s1) hp hj, startPhase_sameBesideTick (s1 := s1) hp⟩
  · obtain ⟨-, hc⟩ := execTickComplete_eq_next.1 h
    obtain ⟨hcur, -⟩ := completeOrHold_frame hc
    exact ⟨fun hw j hj => completeOrHold_getElem?_motors hc hw (hcur ▸ hj), completeOrHold_sameBesideTick hc⟩
  · obtain ⟨-, s1, b, hp, hc⟩ := execTick_eq_next.1 h
    obtain ⟨hcur, -⟩ := completeOrHold_frame hc
    refine ⟨fun hw j hj => ?_, (startPhase_sameBesideTick hp).trans (completeOrHold_sameBesideTick hc)⟩
    rw [hcur] at hj
    rw [completeOrHold_getElem?_motors hc ((watchdogFiredIn_of_startPhase hp t).trans hw) hj,
      startPhase_getElem?_motors hp hj]

/-- A system's next state has the next state of Controller `k` in its place (60_exceptions R126). -/
theorem systemStep_eq_next {k : Nat} {sys sys' : System} : systemStep k sys = some (.next sys') ↔
    ∃ s t, sys[k]? = some s ∧ step s = .next t ∧ sys' = sys.set k t := by
  unfold systemStep
  cases hk : sys[k]? with
  | none => simp
  | some s => cases hs : step s <;> simp [hs, eq_comm (a := sys')]

/-- A step of Controller `k` writes no other Controller (00_scope R3). -/
theorem systemStep_getElem?_of_ne {k j : Nat} {sys sys' : System} (h : systemStep k sys = some (.next sys'))
    (hj : j ≠ k) : sys'[j]? = sys[j]? := by
  obtain ⟨s, t, -, -, rfl⟩ := systemStep_eq_next.1 h
  exact List.getElem?_set_ne hj.symm

end Sys2Proof.Machine
end

section
/-! CERTIFICATE. The statements of 42_channel_mux, settled. -/

namespace Sys2Proof.Machine

/-- Settles O30: tick `k` is `k + 1` places on in the round by induction on the run; `cur` is 0 in a constructed Controller;
and of `N` consecutive places exactly one is a given channel. -/
theorem serviceOrder : Obligations.ServiceOrder := by
  unfold Obligations.ServiceOrder
  refine ⟨fun s run hwf hrun k x => servedIn_getElem? hwf hrun, ?_, ?_⟩
  · intro cfg eng now0 ins run hcfg heng hrun k x hx
    have h := servedIn_getElem? (setInputs_wf (construct_wf hcfg heng now0) ins) hrun hx
    rwa [show (setInputs ins (State.construct cfg eng now0)).cur.toNat = 0 from rfl, Nat.zero_add] at h
  · intro s run hwf hrun k hk c hc
    have hserved {j : Nat} (hj : j < k + s.cfg.n.toNat) :
        (servedIn s run)[j]? = some c ↔ (s.cur.toNat + (j + 1)) % s.cfg.n.toNat = c := by
      have hget := List.getElem?_eq_getElem (Nat.lt_of_lt_of_le hj hk)
      rw [← servedIn_getElem? hwf hrun hget, hget, Option.some.injEq]
    obtain ⟨i, ⟨⟨hle, hlt⟩, hi⟩, huniq⟩ := existsUnique_mod_eq (s.cur.toNat + (k + 1)) hc
    obtain ⟨j, rfl⟩ : ∃ j, i = s.cur.toNat + (j + 1) := ⟨i - s.cur.toNat - 1, by omega⟩
    have hj : j < k + s.cfg.n.toNat := by omega
    refine ⟨j, ⟨by omega, hj, (hserved hj).2 hi⟩, fun j' ⟨hle', hlt', hj'⟩ => ?_⟩
    have heq := huniq _ ⟨⟨by omega, by omega⟩, (hserved hlt').1 hj'⟩
    omega

/-- Settles O31: COMMAND leaves the channel owing REPEAT_COUNT sendings of its frame; each service pays one, and no other
step changes what the channel will send. -/
theorem commandRepeat : Obligations.CommandRepeat := by
  unfold Obligations.CommandRepeat
  intro s t run c k m hwf hc hm h hrun hquiet hfree
  obtain ⟨-, -, hrep, -⟩ := hwf.cfg
  have hrep' : s.cfg.repeatCount ≠ 0 := fun h0 => by simp [h0] at hrep
  rw [BitVec.ofNat_toNat]
  exact servicesOf_of_owing hrun hquiet hfree (sendingAt_of_execCommand hrep' hc hm h)

/-- Settles O24: the selection writes `cur` and `eng_pin`, and the transmit slot is free or not. -/
theorem tickStartResult : Obligations.TickStartResult := by
  unfold Obligations.TickStartResult
  refine ⟨fun s m hwf hidle hm => ?_, fun s => exec_tickStart_of_started, decodeOfEncode .tickStart rfl⟩
  have hsel := hwf.selectNext_eq
  have hcur := hwf.ofNat_servedNext_toNat
  refine ⟨fun hreport hroom => ?_, fun hnot => ?_⟩
  · have hfree : engTxFree s = true := by simp [engTxFree, hreport, hroom]
    have hm' : s.motors[(selectNext s).cur.toNat]? = some m := by rwa [hsel, hcur]
    refine execTickStart_eq_next.2 ⟨hidle, _, _, startPhase_eq_some.2 (.inl ⟨hfree, rfl, m, hm', rfl⟩), ?_⟩
    have hdata := eq_ofNat_of_toNat (n := 2 ^ 8 + servedNext s)
      ((tickStartData_toNat true (BitVec.ofNat 8 (servedNext s))).trans (by rw [hcur]; rfl))
    rw [hsel, ← hdata]
    simp only [sendFrame, setMotor, engPush, hcur]
    rfl
  · have hfree : engTxFree s = false := by
      obtain hreport | hfull := hnot
      · rw [engTxFree, hreport, Bool.false_and]
      · rw [engTxFree, decide_eq_false (Nat.not_lt.2 hfull), Bool.and_false]
    refine execTickStart_eq_next.2 ⟨hidle, _, _, startPhase_eq_some.2 (.inr ⟨hfree, rfl, rfl⟩), ?_⟩
    have hdata := eq_ofNat_of_toNat (n := servedNext s)
      ((tickStartData_toNat false (BitVec.ofNat 8 (servedNext s))).trans (by rw [hcur]; exact Nat.zero_add _))
    rw [hsel, ← hdata]
    rfl

/-- Settles O25: a start phase selects a channel only where there is more than one, and nothing else selects one. -/
theorem singleChannelKeepsEngine : Obligations.SingleChannelKeepsEngine := by
  unfold Obligations.SingleChannelKeepsEngine
  intro s t i hn _ h
  obtain ⟨hcur, hpin, hen⟩ | ⟨-, hlt⟩ := exec_selection h
  · exact ⟨hcur, hen, hpin⟩
  · omega

/-- Settles O26: a completion holds with no word, and else answers with the state that `completed` makes, field by field. -/
theorem tickCompleteResult : Obligations.TickCompleteResult := by
  unfold Obligations.TickCompleteResult
  refine ⟨fun s hph hr => ?_, fun s raw rest m hph hr hm => ?_, fun s hh hph hr => ?_, fun s => exec_tickComplete_of_idle,
    decodeOfEncode .tickComplete rfl⟩
  · rw [exec_tickComplete_of_started hph, completeOrHold_of_no_word hr]
    rfl
  · have hfired : isIdle (setRxSlot rest s) = decide (s.cfg.idleTimeout.toNat < s.now - s.lastCmd) := rfl
    rw [exec_tickComplete_of_started hph, completeOrHold_of_word hr hm, completed_eq, heldData,
      eq_ofNat_of_toNat (tickCompleteData_toNat _ _ _), Motor.count_eq, Motor.forced_eq]
    simp only [hfired, decide_eq_true_eq]
    rfl
  · rw [step_held_ready hh hr, exec_tickComplete_of_started hph]

/-- Settles O27: the start part answers and leaves a state in which the complete part holds or answers; a completion reads
neither the response port nor which of the two requests it completes. -/
theorem tickResult : Obligations.TickResult := by
  unfold Obligations.TickResult
  refine ⟨fun s hwf hidle => ?_, fun s d1 hwf hheld hr => ?_, fun s => exec_tick_of_started, decodeOfEncode .tick rfl⟩
  · obtain ⟨s1, b, m, hp, hm⟩ := startPhase_answers hwf
    have hph := startPhase_phase hp
    have hrx := startPhase_rxSlot hp
    refine ⟨_, _, execTickStart_eq_next.2 ⟨hidle, s1, b, hp, rfl⟩, rfl, fun hr => ?_, fun hr => ?_⟩
    · rw [← startPhase_response hp]
      exact execTick_eq_next.2 ⟨hidle, s1, b, hp, completeOrHold_of_no_word (hrx.trans hr)⟩
    · obtain ⟨raw, rest, hr⟩ := List.exists_cons_of_ne_nil (hrx ▸ hr)
      refine ⟨_, _, execTickComplete_eq_next.2 ⟨hph, completeOrHold_of_word hr hm⟩, rfl, ?_⟩
      refine execTick_eq_next.2 ⟨hidle, s1, b, hp, (completeOrHold_of_word hr hm).trans ?_⟩
      rw [← eq_ofNat_of_toNat (tickData_toNat _ _), completed_tick, setRxSlot_respond, completed_respond]
      rfl
  · obtain ⟨raw, rest, hr'⟩ := List.exists_cons_of_ne_nil hr
    obtain ⟨m, hm⟩ := hwf.motor_exists hwf.cur_lt
    have hph : s.phase = .started := hwf.held (by rw [hheld]; rfl)
    refine ⟨_, _, execTickComplete_eq_next.2 ⟨hph, completeOrHold_of_word hr' hm⟩, rfl, ?_⟩
    rw [step_held_ready hheld hr, ← eq_ofNat_of_toNat (tickData_toNat _ _), completeOrHold_of_word hr' hm, completed_tick]
    rfl

/-- Settles O28: a tick tests its phase first; every other operation answers, and none of the others writes the phase. -/
theorem phaseDiscipline : Obligations.PhaseDiscipline := by
  unfold Obligations.PhaseDiscipline
  refine ⟨fun s h => ⟨exec_tickStart_of_started h, exec_tick_of_started h⟩, fun s => exec_tickComplete_of_idle,
    fun s i hwf hi hstart hcomplete htick => ?_⟩
  obtain ⟨t, ht⟩ := exec_answers hwf hi (fun h => absurd h (not_or.2 ⟨hstart, htick⟩)) fun h => absurd h hcomplete
  exact ⟨t, ht, exec_phase_of_not_tick hstart hcomplete htick ht⟩

/-- Settles O33: a tick is a start phase, a completion or both, each of which writes the served Motor alone; a step of a
system puts the next state of one Controller in its place. -/
theorem tickTouchesServedMotor : Obligations.TickTouchesServedMotor := by
  unfold Obligations.TickTouchesServedMotor
  refine ⟨fun s t i hi h => exec_tick_frame hi h, fun k sys s s1 hk hs => systemStep_eq_next.2 ⟨s, s1, hk, hs, rfl⟩,
    fun k sys s r hk hs => ?_, fun k sys s f hk hs => ?_, fun k sys sys' h j hj => systemStep_getElem?_of_ne h hj⟩
  · simp only [systemStep, hk, hs]
  · simp only [systemStep, hk, hs]

end Sys2Proof.Machine
end

section
/-! SUPPORT. The word of any operation, its code reserved or not, made of its numbers (30_encoding R69, R73, R76). -/

namespace Sys2Proof

/-- The decoder reads every assembled word back, and refuses one whose code is reserved. -/
theorem decode_encode (i : Instr) :
    decode (encode i) = if i.wellFormed then .instr i else .reserved .commandCode := by
  simp only [decode, opField_encode, Op.ofCode_code, encode_and_mustBeZero, ne_eq, not_true_eq_false, if_false,
    withOperands_encode]

/-- `OP << 60 | CH << 52 | A`, with the operand as `A`, is the operation's word. -/
theorem ofNat_eq_encode (i : Instr) {k n : Nat} (hk : i.op.code.toNat = k) {x : BitVec n} (hn : n ≤ 32)
    (ha : i.aOperand = x.setWidth 32) :
    BitVec.ofNat 64 (k * 2 ^ 60 + i.chOperand.toNat * 2 ^ 52 + x.toNat) = encode i := by
  rw [← hk, ← BitVec.toNat_setWidth_of_le (b := x) hn, ← ha, ← encode_toNat, BitVec.ofNat_toNat, BitVec.setWidth_eq]

end Sys2Proof
end

section
/-! SUPPORT. What THROTTLE and COMMAND write: `last_cmd` and one Motor record, whose counters they keep (43_command_api R104,
R105, R107). -/

namespace Sys2Proof.Machine

variable {s t : State} {c : Channel}

/-- A THROTTLE or COMMAND that answers ignores the channel, or writes its record and `last_cmd`. -/
theorem exec_throttle_or_command_cases {i : Instr} (hi : (∃ v, i = .throttle c v) ∨ ∃ k, i = .command c k)
    (h : exec i s = .next t) :
    t = respond .ignored 0 s ∨
    ∃ m m', s.motors[c.toNat]? = some m ∧ t = respond .ok 0 (touchLastCmd (setMotor c m' s)) ∧
      m'.counters = m.counters ∧ ((∃ k, i = .command c k) → m'.fallback = m.fallback) := by
  obtain ⟨v, rfl⟩ | ⟨k, rfl⟩ := hi
  · obtain ⟨-, m, hm, rfl⟩ | ⟨-, rfl⟩ := execThrottle_eq_next.1 h
    · exact .inr ⟨m, _, hm, rfl, rfl, nofun⟩
    · exact .inl rfl
  · obtain ⟨-, ⟨-, m, hm, rfl⟩ | ⟨-, rfl⟩⟩ := execCommand_eq_next.1 h
    · exact .inr ⟨m, _, hm, rfl, rfl, fun _ => rfl⟩
    · exact .inl rfl

end Sys2Proof.Machine
end

section
/-! SUPPORT. A channel that owes no repeats (43_command_api R106): it sends one frame at every service that finds the transmit
slot free, until a THROTTLE, a COMMAND or the watchdog writes its record. -/

namespace Sys2Proof.Machine

variable {s t : State} {c : Channel} {f fb : Frame} {r : BitVec 8} {m : Motor}

theorem Motor.repeats_of_owing (h : m.sending = owing f fb r) : m.repeats = r := congrArg (fun x => x.2.2) h

/-- THROTTLE on a channel of the Controller leaves it owing no repeats: the frame and the fallback are the new one. -/
theorem sendingAt_of_execThrottle {v : BitVec 11} (hc : c.toNat < s.cfg.n.toNat) (h : execThrottle c v s = .next t) :
    sendingAt c t = some (owing (encodeFrame v false) (encodeFrame v false) 0) := by
  obtain ⟨-, m, hm, rfl⟩ | ⟨hc', -⟩ := execThrottle_eq_next.1 h
  · obtain ⟨hlt, -⟩ := List.getElem?_eq_some_iff.1 hm
    rw [sendingAt, respond_motors, touchLastCmd_motors, setMotor_motors, List.getElem?_set_self hlt]
    rfl
  · exact absurd hc hc'

/-- An operation whose start phase finds the transmit slot not free pushes no frame. -/
theorem exec_pushedIn_of_not_free {i : Instr} (hi : i = .tickStart ∨ i = .tick) (h : exec i s = .next t)
    (hf : engTxFree s = false) : pushedIn s t = [] := by
  obtain rfl | rfl := hi
  · obtain ⟨-, s1, b, hp, rfl⟩ := execTickStart_eq_next.1 h
    obtain ⟨-, he⟩ := startPhase_of_not_free (s1 := s1) hp hf
    rw [pushedIn, respond_engine, he, List.drop_length]
  · obtain ⟨-, s1, b, hp, hc⟩ := execTick_eq_next.1 h
    obtain ⟨-, he⟩ := startPhase_of_not_free hp hf
    rw [pushedIn, completeOrHold_txSlot hc, he, List.drop_length]

theorem step_pushedIn_of_not_free (h : step s = .next t) (hst : startsTick s = true) (hf : engTxFree s = false) :
    pushedIn s t = [] := by
  obtain ⟨i, ha, hi⟩ := startsTick_eq_true.1 hst
  obtain ⟨τ, rest, -, hx⟩ := step_of_accepted ha h
  exact exec_pushedIn_of_not_free (s := sample τ (setInputs rest s)) hi hx hf

/-- A service that finds the transmit slot free sends what its channel owes, and pays one repeat. -/
theorem step_sent_of_owing (h : step s = .next t) (hst : startsTick s = true) (hw : watchdogFiredIn s t = false)
    (hf : engTxFree s = true) (ho : sendingAt t.cur s = some (owing f fb r)) :
    (pushedIn s t).map TxEntry.frame = [if r = 0 then fb else f] ∧
      sendingAt t.cur t = some (owing f fb (if r = 0 then 0 else r - 1)) := by
  obtain ⟨m, hm, hpush, hsend⟩ := step_sent h hst hw hf
  have hm' : m.sending = owing f fb r := by simpa [sendingAt, hm] using ho
  exact ⟨by rw [hpush, List.map_singleton, Motor.frame_of_owing hm'], by rw [hsend, Motor.countDown_of_owing hm']⟩

/-- A service of a channel that owes no repeats sends its frame when the transmit slot is free, and nothing else. -/
theorem step_pushedIn_of_owing_zero (h : step s = .next t) (hst : startsTick s = true) (hw : watchdogFiredIn s t = false)
    (ho : sendingAt t.cur s = some (owing f f 0)) :
    (pushedIn s t).map TxEntry.frame = if engTxFree s then [f] else [] := by
  cases hf : engTxFree s with
  | false => rw [step_pushedIn_of_not_free h hst hf]; rfl
  | true =>
    obtain ⟨hpush, -⟩ := step_sent_of_owing h hst hw hf ho
    exact hpush

/-- A channel that owes no repeats stays so: a sending has none to pay, and no other step changes what it will send. -/
theorem step_keeps_owing_zero (h : step s = .next t) (hcmd : noCommandOn c s) (hw : watchdogFiredIn s t = false)
    (ho : sendingAt c s = some (owing f f 0)) : sendingAt c t = some (owing f f 0) := by
  by_cases hsent : startsTick s = true ∧ t.cur = c ∧ engTxFree s = true
  · obtain ⟨hst, rfl, hf⟩ := hsent
    obtain ⟨-, hsend⟩ := step_sent_of_owing h hst hw hf ho
    exact hsend
  · exact (step_sendingAt h hcmd hw hsent).trans ho

/-- In a run with no THROTTLE or COMMAND on `c` and no firing of the watchdog, a channel that owes no repeats sends its frame
at each service that finds the transmit slot free, and nothing at the others. -/
theorem pushedIn_of_owing_zero {run : List State} (hrun : IsRun s run)
    (hquiet : ∀ p ∈ stepsOf s run, noCommandOn c p.1 ∧ watchdogFiredIn p.1 p.2 = false)
    (ho : sendingAt c s = some (owing f f 0)) :
    ∀ p ∈ stepsOf s run, startsTick p.1 = true → p.2.cur = c →
      (pushedIn p.1 p.2).map TxEntry.frame = if engTxFree p.1 then [f] else [] := by
  induction run generalizing s with
  | nil => exact List.forall_mem_nil _
  | cons t rest ih =>
    obtain ⟨hstep, hrest⟩ := hrun
    obtain ⟨⟨hcmd, hw⟩, hquiet'⟩ := List.forall_mem_cons.1 hquiet
    intro p hp
    obtain rfl | hp := List.mem_cons.1 hp
    · exact fun hst hcur => step_pushedIn_of_owing_zero hstep hst hw (hcur ▸ ho)
    · exact ih hrest hquiet' (step_keeps_owing_zero hstep hcmd hw ho) p hp

/-- The services of a channel in a run are the steps with a start phase that serves it. -/
theorem mem_servicesOf {run : List State} {x : Option Frame} (h : x ∈ servicesOf c.toNat s run) :
    ∃ p ∈ stepsOf s run, startsTick p.1 = true ∧ p.2.cur = c ∧ x = (pushedIn p.1 p.2).head?.map TxEntry.frame := by
  induction run generalizing s with
  | nil => cases h
  | cons t rest ih =>
    obtain hfirst | hlater := List.mem_append.1 h
    · have hserved : (startsTick s = true ∧ t.cur = c) ∧ x = (pushedIn s t).head?.map TxEntry.frame := by
        simpa [BitVec.toNat_inj] using hfirst
      obtain ⟨⟨hst, hcur⟩, hx⟩ := hserved
      exact ⟨(s, t), List.mem_cons_self, hst, hcur, hx⟩
    · obtain ⟨p, hp, hservice⟩ := ih hlater
      exact ⟨p, List.mem_cons_of_mem _ hp, hservice⟩

end Sys2Proof.Machine
end

section
/-! CERTIFICATE. The statements of 43_command_api, settled. -/

namespace Sys2Proof.Machine

/-- Settles O23: THROTTLE leaves the channel owing no repeats of any other frame, and every step of such a run keeps it so. -/
theorem throttleCancelsRepeat : Obligations.ThrottleCancelsRepeat := by
  unfold Obligations.ThrottleCancelsRepeat
  intro s t run c v hc h
  have ho := sendingAt_of_execThrottle hc h
  refine ⟨?_, fun hrun hquiet => ?_⟩
  · obtain ⟨m, hm, hsend⟩ := Option.map_eq_some_iff.1 ho
    exact ⟨m, hm, Motor.frame_of_owing hsend, Motor.repeats_of_owing hsend⟩
  · have hpush := pushedIn_of_owing_zero hrun hquiet ho
    refine ⟨hpush, fun x hx => ?_⟩
    obtain ⟨p, hp, hst, hcur, rfl⟩ := mem_servicesOf hx
    rw [← List.head?_map, hpush p hp hst hcur]
    cases engTxFree p.1
    · exact .inl rfl
    · exact .inr rfl

/-- Settles O20: the channel check passes or not, and the word is THROTTLE's with `CH` and `A = V`. -/
theorem throttleResult : Obligations.ThrottleResult := by
  unfold Obligations.ThrottleResult
  refine ⟨fun c v s m hc hm => execThrottle_eq_next.2 (.inl ⟨hc, m, hm, rfl⟩),
    fun c v s hc => execThrottle_eq_next.2 (.inr ⟨Nat.not_lt.2 hc, rfl⟩), fun c v => ?_⟩
  exact (congrArg decode (ofNat_eq_encode (.throttle c v) (k := 0x7) rfl (by decide) rfl)).trans (decode_encode (.throttle c v))

/-- Settles O21: the code is tested before the channel, by the operation as by the decoder. -/
theorem commandResult : Obligations.CommandResult := by
  unfold Obligations.CommandResult
  refine ⟨fun c k s m hk hc hm => ?_, fun c k s hk hc => ?_, fun c k s hk => ⟨_, if_pos hk⟩, fun c k => ?_⟩
  · rw [BitVec.ofNat_toNat]
    exact execCommand_eq_next.2 ⟨hk, .inl ⟨hc, m, hm, rfl⟩⟩
  · exact execCommand_eq_next.2 ⟨hk, .inr ⟨Nat.not_lt.2 hc, rfl⟩⟩
  · have hword := congrArg decode (ofNat_eq_encode (.command c k) (k := 0x8) rfl (by decide) rfl)
    simp only [decode_encode, Instr.wellFormed, decide_eq_true_eq] at hword
    exact hword

/-- Settles O22: the request is ignored, or writes one record, with the counters it had, and `last_cmd`. -/
theorem throttleCommandFrame : Obligations.ThrottleCommandFrame := by
  unfold Obligations.ThrottleCommandFrame
  intro s t i c hi h
  obtain rfl | ⟨m, m', hm, rfl, hcounters, hfallback⟩ := exec_throttle_or_command_cases hi h
  · refine ⟨fun _ _ => rfl, fun m m' hm hm' => ?_, rfl, rfl, rfl, rfl, rfl, rfl, rfl, rfl, rfl, rfl, rfl⟩
    obtain rfl : m = m' := Option.some.inj (hm.symm.trans hm')
    exact ⟨rfl, fun _ => rfl⟩
  · refine ⟨fun j hj => List.getElem?_set_ne hj.symm, fun m₀ m₁ hm₀ hm₁ => ?_, List.length_set, rfl, rfl, rfl, rfl, rfl, rfl,
      rfl, rfl, rfl, rfl⟩
    obtain ⟨hlt, -⟩ := List.getElem?_eq_some_iff.1 hm
    obtain rfl : m = m₀ := Option.some.inj (hm.symm.trans hm₀)
    obtain rfl : m' = m₁ := Option.some.inj ((List.getElem?_set_self hlt).symm.trans hm₁)
    exact ⟨hcounters, hfallback⟩

end Sys2Proof.Machine
end

section
/-! SUPPORT. The watchdog as one completion does it (44_watchdog_stats R108): the wd bit of the response, and the Motor file
where it fires and where it does not. -/

namespace Sys2Proof.Machine

variable {s t : State}

theorem isIdle_eq_true : isIdle s = true ↔ s.cfg.idleTimeout.toNat < s.now - s.lastCmd := decide_eq_true_iff

/-- Bit 19 of TICK_COMPLETE's data is the wd bit. -/
theorem tickCompleteData_getLsbD_wd (wd : Bool) (r : Res) (c : Channel) : (tickCompleteData wd r c).getLsbD 19 = wd := by
  rw [tickCompleteData_eq_append, BitVec.getLsbD_setWidth, BitVec.getLsbD_append]
  simp

theorem completed_motors_of_idle {h : Held} {raw : RxWord} {m : Motor} (hi : isIdle s = true) :
    (completed h raw m s).motors =
      (s.motors.set s.cur.toNat (m.count s.cfg.cntWidth (tlmFn s.cfg raw).res)).map Motor.forced := by
  rw [completed_motors, if_pos hi]

/-- Counting a word for a Motor of the file changes nothing of what the channels will send. -/
theorem map_sending_set_count {ms : List Motor} {k : Nat} {m : Motor} (hm : ms[k]? = some m) (w : Nat) (r : Res) :
    (ms.set k (m.count w r)).map Motor.sending = ms.map Motor.sending := by
  obtain ⟨hlt, rfl⟩ := List.getElem?_eq_some_iff.1 hm
  rw [List.map_set, Motor.sending_count, ← List.map_set, List.set_getElem_self]

/-- A completion that does not find the Controller idle keeps what every channel will send. -/
theorem completed_map_sending {h : Held} {raw : RxWord} {m : Motor} (hm : s.motors[s.cur.toNat]? = some m)
    (hi : isIdle s = false) : (completed h raw m s).motors.map Motor.sending = s.motors.map Motor.sending := by
  rw [completed_motors, hi]
  exact map_sending_set_count hm _ _

end Sys2Proof.Machine
end

section
/-! SUPPORT. Where a receive word is popped and where a frame is pushed (42_channel_mux R96, R98): a step that pops ends in a
completion, and what a step pushes is the frame of a Motor. -/

namespace Sys2Proof.Machine

variable {s t s1 : State} {b : Bool}

/-- No word is popped where the receive slot is no shorter than before. -/
theorem not_poppedIn_of_le (h : s.engine.rxSlot.length ≤ t.engine.rxSlot.length) : ¬ poppedIn s t = true := by
  simpa [poppedIn] using h

/-- An operation that pops a word ends in a completion, possibly after a start phase, which leaves the receive slot as it
was. -/
theorem exec_completes_of_poppedIn {i : Instr} (h : exec i s = .next t) (hpop : poppedIn s t = true) :
    ∃ hd u, u.engine.rxSlot = s.engine.rxSlot ∧ completeOrHold hd u = .next t := by
  obtain ⟨-, -, -, st, d, rfl⟩ | ⟨c, v, m, -, -, -, rfl⟩ | ⟨c, k, m, -, -, -, rfl⟩ | ⟨-, -, s1, b, hp, rfl⟩ |
    ⟨-, -, hc⟩ | ⟨-, -, s1, b, hp, hc⟩ := exec_cases h
  · exact absurd hpop (not_poppedIn_of_le (Nat.le_refl _))
  · exact absurd hpop (not_poppedIn_of_le (Nat.le_refl _))
  · exact absurd hpop (not_poppedIn_of_le (Nat.le_refl _))
  · exact absurd hpop (not_poppedIn_of_le (by rw [respond_engine, startPhase_rxSlot hp]))
  · exact ⟨_, s, rfl, hc⟩
  · exact ⟨_, s1, startPhase_rxSlot hp, hc⟩

/-- A step that pops a word ends in a completion. -/
theorem step_completes_of_poppedIn (h : step s = .next t) (hpop : poppedIn s t = true) :
    ∃ hd u, u.engine.rxSlot = s.engine.rxSlot ∧ completeOrHold hd u = .next t := by
  obtain ⟨-, rfl | ⟨m, xs, rfl⟩ | ⟨hd, raw, rest, m, -, hr, hm, rfl⟩⟩ | ⟨i, w, τ, rest, -, -, -, -, -, hx⟩ := step_cases h
  · exact absurd hpop (not_poppedIn_of_le (Nat.le_refl _))
  · refine absurd hpop (not_poppedIn_of_le ?_)
    obtain ⟨-, hkept | ⟨w, -, hplaced⟩⟩ := engineMove_slots (s := setInputs xs s) m
    · rw [hkept, setInputs_engine]
    · simp [hplaced]
  · exact ⟨hd, s, rfl, completeOrHold_of_word hr hm⟩
  · exact exec_completes_of_poppedIn (s := sample τ (setInputs rest s)) hx hpop

theorem pushedIn_eq_nil (h : t.engine.txSlot.length ≤ s.engine.txSlot.length) : pushedIn s t = [] :=
  List.drop_eq_nil_of_le h

/-- A frame pushed is the frame a Motor held before. -/
def PushesMotorFrames (s t : State) : Prop := ∀ x ∈ pushedIn s t, ∃ m ∈ s.motors, x.frame = m.frame

theorem pushesMotorFrames_of_le (h : t.engine.txSlot.length ≤ s.engine.txSlot.length) : PushesMotorFrames s t := by
  rw [PushesMotorFrames, pushedIn_eq_nil h]
  exact List.forall_mem_nil _

theorem startPhase_pushesMotorFrames (h : startPhase s = some (s1, b)) : PushesMotorFrames s s1 := by
  cases hf : engTxFree s with
  | true =>
    obtain ⟨m, hm, hpush, -⟩ := startPhase_sent h hf
    rw [PushesMotorFrames, hpush]
    exact List.forall_mem_singleton.2 ⟨m, List.mem_of_getElem? hm, rfl⟩
  | false =>
    obtain ⟨-, he⟩ := startPhase_of_not_free h hf
    exact pushesMotorFrames_of_le (by rw [he])

theorem exec_pushesMotorFrames {i : Instr} (h : exec i s = .next t) : PushesMotorFrames s t := by
  obtain ⟨-, -, -, st, d, rfl⟩ | ⟨c, v, m, -, -, -, rfl⟩ | ⟨c, k, m, -, -, -, rfl⟩ | ⟨-, -, s1, b, hp, rfl⟩ |
    ⟨-, -, hc⟩ | ⟨-, -, s1, b, hp, hc⟩ := exec_cases h
  · exact pushesMotorFrames_of_le (Nat.le_refl _)
  · exact pushesMotorFrames_of_le (Nat.le_refl _)
  · exact pushesMotorFrames_of_le (Nat.le_refl _)
  · exact startPhase_pushesMotorFrames (s1 := s1) hp
  · exact pushesMotorFrames_of_le (by rw [completeOrHold_txSlot hc])
  · rw [PushesMotorFrames, pushedIn, completeOrHold_txSlot hc]
    exact startPhase_pushesMotorFrames hp

theorem step_pushesMotorFrames (h : step s = .next t) : PushesMotorFrames s t := by
  obtain ⟨-, rfl | ⟨m, xs, rfl⟩ | ⟨hd, raw, rest, m, -, -, -, rfl⟩⟩ | ⟨i, w, τ, rest, -, -, -, -, -, hx⟩ := step_cases h
  · exact pushesMotorFrames_of_le (Nat.le_refl _)
  · refine pushesMotorFrames_of_le ?_
    obtain ⟨hkept | ⟨e, hsent⟩, -⟩ := engineMove_slots (s := setInputs xs s) m
    · rw [hkept, setInputs_engine]
    · rw [← setInputs_engine s xs, hsent]
      exact Nat.le_succ _
  · exact pushesMotorFrames_of_le (by rw [completed_engine, setRxSlot_engine])
  · exact exec_pushesMotorFrames (s := sample τ (setInputs rest s)) hx

end Sys2Proof.Machine
end

section
/-! SUPPORT. The neutral Motor file (44_watchdog_stats R109): the watchdog makes it, every update but THROTTLE's and COMMAND's
keeps it, and from it only NEUTRAL is sent. The fallback is part of it, because a countdown moves the fallback into the
frame. -/

namespace Sys2Proof.Machine

variable {s t s1 : State} {b : Bool} {m : Motor}

/-- Frame and fallback both NEUTRAL. -/
def Motor.IsNeutral (m : Motor) : Prop := m.frame = neutral ∧ m.fallback = neutral

/-- Every Motor's frame and fallback NEUTRAL. -/
def State.AllNeutral (s : State) : Prop := ∀ m ∈ s.motors, m.IsNeutral

theorem Motor.isNeutral_forced (m : Motor) : m.forced.IsNeutral := ⟨rfl, rfl⟩

theorem Motor.IsNeutral.count (h : m.IsNeutral) (w : Nat) (r : Res) : (m.count w r).IsNeutral := by
  simpa [Motor.IsNeutral] using h

theorem Motor.IsNeutral.countDown (h : m.IsNeutral) : m.countDown.IsNeutral := by
  obtain ⟨hframe, hfallback⟩ := h
  obtain he | he | ⟨-, he⟩ := m.countDown_cases <;> rw [he]
  · exact ⟨hframe, hfallback⟩
  · exact ⟨hfallback, hfallback⟩
  · exact ⟨hframe, hfallback⟩

/-- A completion that finds the Controller idle leaves the Motor file neutral. -/
theorem completed_allNeutral_of_idle {h : Held} {raw : RxWord} (hi : isIdle s = true) :
    (completed h raw m s).AllNeutral := by
  rw [State.AllNeutral, completed_motors_of_idle hi]
  exact List.forall_mem_map.2 fun m _ => m.isNeutral_forced

/-- A completion keeps the Motor file neutral, whether or not the watchdog fires. -/
theorem completed_allNeutral {h : Held} {raw : RxWord} (hm : m.IsNeutral) (hs : s.AllNeutral) :
    (completed h raw m s).AllNeutral := by
  by_cases hi : isIdle s = true
  · exact completed_allNeutral_of_idle hi
  · rw [State.AllNeutral, completed_motors, if_neg hi]
    exact forall_mem_set hs (hm.count _ _)

theorem completeOrHold_allNeutral {hd : Held} (h : completeOrHold hd s = .next t) (hs : s.AllNeutral) :
    t.AllNeutral := by
  obtain ⟨-, rfl⟩ | ⟨raw, rest, m, -, hm, rfl⟩ := completeOrHold_eq_next.1 h
  · exact hs
  · exact completed_allNeutral (s := setRxSlot rest s) (hs m (List.mem_of_getElem? hm)) hs

theorem startPhase_allNeutral (h : startPhase s = some (s1, b)) (hs : s.AllNeutral) : s1.AllNeutral := by
  cases hf : engTxFree s with
  | true =>
    obtain ⟨m, hm, hmotors, -⟩ := startPhase_of_free h hf
    rw [State.AllNeutral, hmotors]
    exact forall_mem_set hs (hs m (List.mem_of_getElem? hm)).countDown
  | false =>
    obtain ⟨hmotors, -⟩ := startPhase_of_not_free h hf
    rwa [State.AllNeutral, hmotors]

/-- An operation that is no THROTTLE or COMMAND on a channel of the Controller keeps the Motor file neutral. -/
theorem exec_allNeutral {i : Instr} (h : exec i s = .next t)
    (hno : ∀ c : Channel, c.toNat < s.cfg.n.toNat → (∀ v, i ≠ .throttle c v) ∧ ∀ k, i ≠ .command c k)
    (hs : s.AllNeutral) : t.AllNeutral := by
  obtain ⟨-, -, -, st, d, rfl⟩ | ⟨c, v, m, hi, hc, -, -⟩ | ⟨c, k, m, hi, hc, -, -⟩ | ⟨-, -, s1, b, hp, rfl⟩ |
    ⟨-, -, hc⟩ | ⟨-, -, s1, b, hp, hc⟩ := exec_cases h
  · exact hs
  · exact absurd hi ((hno c hc).1 v)
  · exact absurd hi ((hno c hc).2 k)
  · exact startPhase_allNeutral (s1 := s1) hp hs
  · exact completeOrHold_allNeutral hc hs
  · exact completeOrHold_allNeutral hc (startPhase_allNeutral hp hs)

/-- A step that accepts no THROTTLE or COMMAND on a channel of the Controller keeps the Motor file neutral. -/
theorem step_allNeutral (h : step s = .next t) (hquiet : ∀ c : Channel, c.toNat < s.cfg.n.toNat → noCommandOn c s)
    (hs : s.AllNeutral) : t.AllNeutral := by
  obtain ⟨-, rfl | ⟨m, xs, rfl⟩ | ⟨hd, raw, rest, m, -, -, hm, rfl⟩⟩ | ⟨i, w, τ, rest, -, -, -, -, hT, hx⟩ := step_cases h
  · exact hs
  · rwa [State.AllNeutral, engineMove_motors]
  · exact completed_allNeutral (s := setRxSlot rest s) (hs m (List.mem_of_getElem? hm)) hs
  · refine exec_allNeutral (s := sample τ (setInputs rest s)) hx (fun c hc => ?_) hs
    have ha := accepted_of_turn hT
    obtain ⟨hv, hk⟩ := hquiet c hc
    exact ⟨fun v hi => hv v (hi ▸ ha), fun k hi => hk k (hi ▸ ha)⟩

/-- A step in which the watchdog fires leaves the Motor file neutral. -/
theorem step_allNeutral_of_fired (h : step s = .next t) (hw : watchdogFiredIn s t = true) : t.AllNeutral := by
  obtain ⟨hpop, hidle⟩ := Bool.and_eq_true_iff.1 hw
  obtain ⟨hd, u, hrx, hc⟩ := step_completes_of_poppedIn h hpop
  obtain ⟨-, rfl⟩ | ⟨raw, rest, m, -, -, rfl⟩ := completeOrHold_eq_next.1 hc
  · exact absurd hpop (not_poppedIn_of_le (by rw [setHeld_engine, hrx]))
  · exact completed_allNeutral_of_idle (isIdle_completed.symm.trans hidle)

/-- From a neutral Motor file, a run with no THROTTLE or COMMAND on a channel of the Controller sends NEUTRAL only, and ends
neutral. -/
theorem framesSentOn_of_allNeutral {run : List State} (hrun : IsRun s run)
    (hquiet : ∀ p ∈ stepsOf s run, ∀ c : Channel, c.toNat < s.cfg.n.toNat → noCommandOn c p.1) (hs : s.AllNeutral) :
    (∀ c, ∀ f ∈ framesSentOn c s run, f = neutral) ∧ (lastOf s run).AllNeutral := by
  induction run generalizing s with
  | nil => exact ⟨fun c => List.forall_mem_nil _, hs⟩
  | cons t rest ih =>
    obtain ⟨hstep, hrest⟩ := hrun
    obtain ⟨hquiet0, hquiet'⟩ := List.forall_mem_cons.1 hquiet
    rw [← step_cfg hstep] at hquiet'
    obtain ⟨hlater, hlast⟩ := ih hrest hquiet' (step_allNeutral hstep hquiet0 hs)
    refine ⟨fun c => List.forall_mem_append.2 ⟨?_, hlater c⟩, hlast⟩
    split
    · refine List.forall_mem_map.2 fun x hx => ?_
      obtain ⟨m, hm, hframe⟩ := step_pushesMotorFrames hstep x hx
      exact hframe.trans (hs m hm).1
    · exact List.forall_mem_nil _

/-- The frames of a neutral Motor file in the rule's own number for `NEUTRAL`. -/
theorem State.AllNeutral.frame_eq (h : s.AllNeutral) : ∀ m ∈ s.motors, m.frame = 0x000F :=
  fun m hm => (h m hm).1.trans neutral_eq

end Sys2Proof.Machine
end

section
/-! SUPPORT. The numbers of READ_STAT's fields (30_encoding R70). -/

namespace Sys2Proof

/-- `SEL` numbers the fields in their order. -/
theorem StatSel.code_of_getElem? {k : Nat} {sel : StatSel}
    (h : [StatSel.good, .badGcr, .badCrc, .badType, .timeouts, .frame, .fallback, .repeats][k]? = some sel) :
    sel.code.toNat = k := by
  obtain ⟨hk, rfl⟩ := List.getElem?_eq_some_iff.1 h
  revert k
  decide

end Sys2Proof
end

section
/-! CERTIFICATE. The statements of 44_watchdog_stats, settled. -/

namespace Sys2Proof.Machine

/-- Settles O36: the completion finds the time it leaves behind, so the watchdog fires; and from the neutral Motor file it
leaves, every step without a command keeps it neutral and sends a Motor's frame or none. -/
theorem failSafe : Obligations.FailSafe := by
  unfold Obligations.FailSafe
  intro s t run _ h hpop hlate
  have hidle : isIdle t = true := isIdle_eq_true.2 (Nat.lt_sub_iff_add_lt'.2 hlate)
  have ht : t.AllNeutral := step_allNeutral_of_fired h (Bool.and_eq_true_iff.2 ⟨hpop, hidle⟩)
  refine ⟨ht.frame_eq, fun hrun hquiet => ?_⟩
  obtain ⟨hsent, hlast⟩ := framesSentOn_of_allNeutral hrun hquiet ht
  exact ⟨fun c f hf => (hsent c f hf).trans neutral_eq, hlast.frame_eq⟩

/-- Settles O35: the wd bit is the idle test of the state in which the word is popped, and so is the watchdog's own. -/
theorem watchdogBoundary : Obligations.WatchdogBoundary := by
  unfold Obligations.WatchdogBoundary
  intro s t _ hr h
  obtain ⟨-, hc⟩ := execTickComplete_eq_next.1 h
  obtain ⟨hr', -⟩ | ⟨raw, rest, m, -, hm, rfl⟩ := completeOrHold_eq_next.1 hc
  · exact absurd hr' hr
  refine ⟨completed_lastCmd .., ⟨_, rfl, ?_⟩, fun hlate => ?_, fun hearly j m₀ m₁ hm₀ hm₁ => ?_⟩
  · rw [heldData, tickCompleteData_getLsbD_wd]
    exact isIdle_eq_true
  · have hidle : isIdle (setRxSlot rest s) = true := isIdle_eq_true.2 hlate
    rw [completed_motors_of_idle hidle, Motor.forced_eq]
    exact ⟨by simp, List.forall_mem_map.2 fun x _ => ⟨rfl, rfl, rfl⟩⟩
  · have hidle : isIdle (setRxSlot rest s) = false := decide_eq_false (Nat.not_lt.2 hearly)
    have hsame := congrArg (·[j]?) (completed_map_sending (s := setRxSlot rest s) (h := .complete) (raw := raw) hm hidle)
    simpa [hm₀, hm₁, Motor.sending] using hsame

/-- Settles O37: the channel check passes or not, and the word is READ_STAT's with `CH` and `A = SEL`. -/
theorem readStatResult : Obligations.ReadStatResult := by
  unfold Obligations.ReadStatResult
  refine ⟨fun c sel s m hc hm => execReadStat_eq_next.2 (.inl ⟨hc, m, hm, ?_⟩),
    fun c sel s hc => execReadStat_eq_next.2 (.inr ⟨Nat.not_lt.2 hc, rfl⟩), fun c k sel hk => ?_⟩
  · cases sel <;> rfl
  · rw [← StatSel.code_of_getElem? hk]
    exact (congrArg decode (ofNat_eq_encode (.readStat c sel) (k := 0xC) rfl (by decide) rfl)).trans
      (decode_encode (.readStat c sel))

/-- Settles O38: NOP answers with data 0, and its word is 0. -/
theorem nopResult : Obligations.NopResult := by
  unfold Obligations.NopResult
  exact ⟨fun s => rfl, decodeOfEncode .nop rfl⟩

end Sys2Proof.Machine
end

section
/-! SUPPORT. No operation faults under the invariant, and neither does a request whose time runs backwards
(60_exceptions R112, R120). -/

namespace Sys2Proof.Machine

variable {s : State}

/-- A request whose time is before the last sampled one is refused, whatever its word (log 11). -/
theorem step_of_backward_time {w : ReqWord} {t : Micros} {rest : List Input} (hheld : s.held = none)
    (hin : s.inputs = .request w t :: rest) (ht : t < s.now) : step s = .refused .timeBackwards := by
  simp only [step, turn, hheld, hin, acceptRequest, setInputs_now, ht, if_true]

/-- Under the invariant a well-formed operation answers, or it is a tick in the wrong phase and refused. -/
theorem exec_not_fault (h : s.Wf) {i : Instr} (hi : i.wellFormed = true) (f : Fault) : exec i s ≠ .fault f := by
  suffices hx : (∃ u, exec i s = .next u) ∨ exec i s = .refused .wrongPhase by
    obtain ⟨u, hu⟩ | hr := hx
    · rw [hu]; nofun
    · rw [hr]; nofun
  cases hph : s.phase with
  | idle =>
    by_cases hc : i = .tickComplete
    · exact .inr (hc ▸ exec_tickComplete_of_idle hph)
    · exact .inl (exec_answers h hi (fun _ => hph) fun he => absurd he hc)
  | started =>
    by_cases ht : i = .tickStart ∨ i = .tick
    · obtain rfl | rfl := ht
      · exact .inr (exec_tickStart_of_started hph)
      · exact .inr (exec_tick_of_started hph)
    · exact .inl (exec_answers h hi (fun he => absurd he ht) fun _ => hph)

end Sys2Proof.Machine
end

section
/-! SUPPORT. The five receive statistics as one list (30_encoding R70, 42_channel_mux R98): a result counts at its own
place in it, and the watchdog keeps it. -/

namespace Sys2Proof.Machine

variable {s : State} {m : Motor}

/-- The place in READ_STAT's order of the counter a result increments (42_channel_mux R98, decision D25). -/
def counterOf : Res → Nat
  | .ok => 0
  | .badGcr => 1
  | .badCrc => 2
  | .unsupported => 3
  | .zeroErpm => 3
  | .timeout => 4

theorem counterOf_lt (r : Res) : counterOf r < 5 := by cases r <;> decide

/-- `good` is the counter of the result OK alone. -/
theorem counterOf_eq_zero {r : Res} : counterOf r = 0 ↔ r = .ok := by cases r <;> decide

theorem Motor.counters_count (m : Motor) (w : Nat) (r : Res) :
    (m.count w r).counters = m.counters.modify (counterOf r) (bump w) := by cases r <;> rfl

theorem Motor.counters_forced (m : Motor) : m.forced.counters = m.counters := rfl

/-- A completion leaves the served Motor with the counters that counting the word gives, whether or not the watchdog
fires. -/
theorem completed_counters {h : Held} {raw : RxWord} (hm : s.motors[s.cur.toNat]? = some m) :
    ∃ m', (completed h raw m s).motors[s.cur.toNat]? = some m' ∧
      m'.counters = m.counters.modify (counterOf (tlmFn s.cfg raw).res) (bump s.cfg.cntWidth) := by
  obtain ⟨hlt, -⟩ := List.getElem?_eq_some_iff.1 hm
  have hset := List.getElem?_set_self (a := m.count s.cfg.cntWidth (tlmFn s.cfg raw).res) hlt
  rw [completed_motors, ← Motor.counters_count]
  split
  · exact ⟨_, by rw [List.getElem?_map, hset, Option.map_some], Motor.counters_forced _⟩
  · exact ⟨_, hset, rfl⟩

end Sys2Proof.Machine
end

section
/-! SUPPORT. The engine's turn and what each of its moves does (60_exceptions R122 to R124; log 3, log 5, log 14). -/

namespace Sys2Proof.Machine

variable {s : State}

/-- With nothing held, an engine move at the head of the inputs is the step. -/
theorem step_of_engine {m : EngineMove} {rest : List Input} (hheld : s.held = none)
    (hin : s.inputs = .engine m :: rest) : step s = .next (engineMove m (setInputs rest s)) := by
  simp only [step, turn, hheld, hin]

theorem engineMove_transmit_of_frame {e : TxEntry} {tx : List TxEntry} (hen : s.engEn = true)
    (htx : s.engine.txSlot = e :: tx) : engineMove .transmit s = { s with engine := { s.engine with
      txSlot := tx, wire := s.engine.wire ++ [⟨s.engPin, s.cfg.speed, e.frame, e.gap⟩] } } := by
  simp only [engineMove, engineTransmit, htx, hen, if_true]

/-- A transmit move with the engine disabled, or with no frame, does nothing (log 3, log 14). -/
theorem engineMove_transmit_of_nothing (h : s.engEn = false ∨ s.engine.txSlot = []) : engineMove .transmit s = s := by
  cases htx : s.engine.txSlot with
  | nil => simp only [engineMove, engineTransmit, htx]
  | cons e tx =>
    have hen : s.engEn = false := h.resolve_right (by rw [htx]; nofun)
    simp only [engineMove, engineTransmit, htx, hen, Bool.false_eq_true, if_false]

theorem engineMove_place_of_room (w : RxWord) (h : s.engine.rxSlot.length < s.cfg.engRxDepth) :
    engineMove (.place w) s = { s with engine := { s.engine with rxSlot := s.engine.rxSlot ++ [w] } } := if_pos h

/-- A word placed into a full receive slot is lost (log 5). -/
theorem engineMove_place_of_full (w : RxWord) (h : s.cfg.engRxDepth ≤ s.engine.rxSlot.length) :
    engineMove (.place w) s = s := if_neg (Nat.not_lt.2 h)

theorem engTxFree_eq_true :
    engTxFree s = true ↔ s.engine.txReport = true ∧ s.engine.txSlot.length < s.cfg.engTxDepth := by
  rw [engTxFree, Bool.and_eq_true, decide_eq_true_iff]

end Sys2Proof.Machine
end

section
/-! CERTIFICATE. The statements of 60_exceptions, settled. -/

namespace Sys2Proof.Machine

/-- Settles O34: the completion counts the word at the place of its result, and emits a reading where that is OK. -/
theorem eachWordCountedOnce : Obligations.EachWordCountedOnce := by
  unfold Obligations.EachWordCountedOnce
  intro s t m _ hr hm h
  obtain ⟨-, hc⟩ := execTickComplete_eq_next.1 h
  obtain ⟨hr', -⟩ | ⟨raw, rest, m₀, -, hm₀, rfl⟩ := completeOrHold_eq_next.1 hc
  · exact absurd hr' hr
  obtain rfl : m = m₀ := Option.some.inj (hm.symm.trans hm₀)
  obtain ⟨m', hm', hcounters⟩ := completed_counters (s := setRxSlot rest s) (h := .complete) (raw := raw) hm
  refine ⟨m', counterOf (tlmFn s.cfg raw).res, hm', counterOf_lt _, fun i x hx => ?_, fun hgood => ?_,
    fun hother => ?_⟩
  · rw [hcounters, List.getElem?_modify, hx]
    simp only [eq_comm (a := i)]
    rfl
  · exact ⟨_, completed_sink.trans (if_pos (counterOf_eq_zero.1 hgood)), rfl⟩
  · exact completed_sink.trans (if_neg (mt counterOf_eq_zero.2 hother))

/-- Settles O46: a held request and the engine's turns answer; a request is refused before it is performed, or its
operation does not fault. -/
theorem noStepFaults : Obligations.NoStepFaults := by
  unfold Obligations.NoStepFaults
  intro s f hwf hfault
  have hanswers : ¬ ∃ u, step s = .next u := fun ⟨u, hu⟩ => by cases hu.symm.trans hfault
  by_cases hheld : s.held = none
  · by_cases hin : ∃ w t rest, s.inputs = .request w t :: rest
    · obtain ⟨w, t, rest, hin⟩ := hin
      by_cases ht : t < s.now
      · cases (step_of_backward_time hheld hin ht).symm.trans hfault
      · have ht := Nat.le_of_not_lt ht
        cases hd : decode w with
        | reserved why => cases (step_of_reserved hheld hin ht hd).symm.trans hfault
        | instr i =>
          have hstep := step_of_turn_perform (turn_eq_perform.2 ⟨hheld, w, t, rest, hin, ht, hd, rfl⟩)
          exact exec_not_fault (sample_wf (setInputs_wf hwf rest) ht) (wellFormed_of_decode hd) f
            (hstep.symm.trans hfault)
    · exact hanswers (step_answers_of_no_request hheld fun w t rest h => hin ⟨w, t, rest, h⟩)
  · exact hanswers (step_answers_of_held hwf hheld)

/-- Settles O57: a held turn takes the first engine move past the requests, and no engine move looks at what is held. -/
theorem engineMovesWhileHeld : Obligations.EngineMovesWhileHeld := by
  unfold Obligations.EngineMovesWhileHeld
  intro s h m waiting rest hheld hrx hwait hin
  have hmove := engineMove_withHeld m (some h) (setInputs (waiting ++ rest) { s with held := none })
  refine ⟨_, step_of_engine rfl rfl, ?_, engineMove_inputs ..⟩
  rw [step_held_waiting hheld hrx, hin, takeEngineMove_append hwait]
  exact congrArg Host.Outcome.next (.trans (by rw [← hheld]; rfl) hmove)

/-- Settles O49: the step is the engine's transmit move, with a frame to send or with nothing to do. -/
theorem engineTransmits : Obligations.EngineTransmits := by
  unfold Obligations.EngineTransmits
  refine ⟨fun s e tx rest hheld hin hen htx => ?_, fun s rest hheld hin hnot => ?_⟩
  · rw [step_of_engine hheld hin, engineMove_transmit_of_frame (s := setInputs rest s) hen htx]
    rfl
  · rw [step_of_engine hheld hin, engineMove_transmit_of_nothing (s := setInputs rest s) hnot]
    rfl

/-- Settles O55: the step is the engine's placement, into a slot with room or a full one. -/
theorem enginePlaces : Obligations.EnginePlaces := by
  unfold Obligations.EnginePlaces
  refine fun s w rest hheld hin => ⟨fun hroom => ?_, fun hfull => ?_⟩
  · rw [step_of_engine hheld hin, engineMove_place_of_room (s := setInputs rest s) w hroom]
    rfl
  · rw [step_of_engine hheld hin, engineMove_place_of_full (s := setInputs rest s) w hfull]
    rfl

/-- Settles O56: the step is the engine's report, and `tx_free` is that report and room in the transmit slot. -/
theorem engineReports : Obligations.EngineReports := by
  unfold Obligations.EngineReports
  exact fun s b rest hheld hin => ⟨_, step_of_engine hheld hin, rfl, engTxFree_eq_true⟩

end Sys2Proof.Machine
end

section
/-! SUPPORT. Frames are sent by start phases alone (42_channel_mux R96), so a command's repeats are counted by the frames sent,
whichever services send them (70_reset_and_hazards R140). -/

namespace Sys2Proof.Machine

variable {s t : State} {c : Channel} {f fb : Frame} {r : BitVec 8}

/-- An operation with no start phase gives the engine's transmit slot no frame. -/
theorem exec_txSlot_of_not_start {i : Instr} (hi : ¬ (i = .tickStart ∨ i = .tick)) (h : exec i s = .next t) :
    t.engine.txSlot = s.engine.txSlot := by
  obtain ⟨-, -, -, st, d, rfl⟩ | ⟨c, v, m, -, -, -, rfl⟩ | ⟨c, k, m, -, -, -, rfl⟩ | ⟨rfl, -⟩ | ⟨-, -, hc⟩ | ⟨rfl, -⟩ :=
    exec_cases h
  · rfl
  · rfl
  · rfl
  · exact absurd (.inl rfl) hi
  · exact completeOrHold_txSlot hc
  · exact absurd (.inr rfl) hi

/-- A step with no start phase pushes no frame: the engine's own moves only take frames from its slot. -/
theorem step_pushedIn_of_not_startsTick (h : step s = .next t) (hst : startsTick s = false) : pushedIn s t = [] := by
  obtain ⟨-, rfl | ⟨m, xs, rfl⟩ | ⟨hd, raw, rest, m, -, -, -, rfl⟩⟩ | ⟨i, w, τ, rest, -, -, -, -, hT, hx⟩ := step_cases h
  · exact pushedIn_eq_nil (Nat.le_refl _)
  · obtain ⟨hkept | ⟨e, hsent⟩, -⟩ := engineMove_slots (s := setInputs xs s) m
    · exact pushedIn_eq_nil (by rw [hkept, setInputs_engine])
    · exact pushedIn_eq_nil (by rw [← setInputs_engine s xs, hsent]; exact Nat.le_succ _)
  · exact pushedIn_eq_nil (by rw [completed_engine, setRxSlot_engine])
  · have hi : ¬ (i = .tickStart ∨ i = .tick) := fun hi =>
      absurd (hst.symm.trans (startsTick_of_accepted (accepted_of_turn hT) hi)) nofun
    exact pushedIn_eq_nil (by rw [exec_txSlot_of_not_start hi hx, sample_engine, setInputs_engine])

/-- A step pushes a frame only where a start phase finds the transmit slot free. -/
theorem step_pushedIn_of_not_sent (h : step s = .next t) (hsent : ¬ (startsTick s = true ∧ engTxFree s = true)) :
    pushedIn s t = [] := by
  cases hst : startsTick s with
  | false => exact step_pushedIn_of_not_startsTick h hst
  | true =>
    have hf : engTxFree s = false := Bool.eq_false_iff.2 fun hf => hsent ⟨hst, hf⟩
    exact step_pushedIn_of_not_free h hst hf

/-- The `n + 1` frames of a channel that owes `r` sendings of `f`: the one it sends, and the `n` of the channel with one
repeat paid. -/
theorem owed_frames_succ (f fb : Frame) (r : BitVec 8) (n : Nat) :
    (List.replicate r.toNat f ++ List.replicate (n + 1) fb).take (n + 1) = (if r = 0 then fb else f) ::
      (List.replicate (if r = 0 then 0 else r - 1).toNat f ++ List.replicate n fb).take n := by
  have hzero : r.toNat = 0 ↔ r = 0 := BitVec.toNat_inj (y := 0#8)
  have hpaid : (if r = 0 then 0 else r - 1).toNat = r.toNat - 1 := by split_ifs <;> bv_omega
  rw [take_replicate_append_succ, hpaid]
  simp only [hzero]

/-- In a run with no THROTTLE or COMMAND on `c` and no firing of the watchdog, a channel that owes `r` sendings of `f` sends
them first, and then its fallback, whatever services find the transmit slot free. -/
theorem framesSentOn_of_owing {run : List State} (hrun : IsRun s run)
    (hquiet : ∀ p ∈ stepsOf s run, noCommandOn c p.1 ∧ watchdogFiredIn p.1 p.2 = false)
    (ho : sendingAt c s = some (owing f fb r)) :
    framesSentOn c.toNat s run = (List.replicate r.toNat f ++
      List.replicate (framesSentOn c.toNat s run).length fb).take (framesSentOn c.toNat s run).length := by
  induction run generalizing s r with
  | nil => rfl
  | cons t rest ih =>
    obtain ⟨hstep, hrest⟩ := hrun
    obtain ⟨⟨hcmd, hw⟩, hquiet'⟩ := List.forall_mem_cons.1 hquiet
    by_cases hsent : startsTick s = true ∧ t.cur = c ∧ engTxFree s = true
    · obtain ⟨hst, rfl, hf⟩ := hsent
      obtain ⟨hpush, hsend⟩ := step_sent_of_owing hstep hst hw hf ho
      rw [framesSentOn, if_pos rfl, hpush, List.singleton_append, List.length_cons, owed_frames_succ,
        ← ih hrest hquiet' hsend]
    · have hskip : framesSentOn c.toNat s (t :: rest) = framesSentOn c.toNat t rest := by
        rw [framesSentOn]
        split_ifs with hcur
        · have hpush := step_pushedIn_of_not_sent hstep fun ⟨hst, hf⟩ => hsent ⟨hst, BitVec.eq_of_toNat_eq hcur, hf⟩
          rw [hpush, List.map_nil, List.nil_append]
        · exact List.nil_append _
      rw [hskip]
      exact ih hrest hquiet' ((step_sendingAt hstep hcmd hw hsent).trans ho)

end Sys2Proof.Machine
end

section
/-! SUPPORT. What a state becomes while a request is held and no word comes (70_reset_and_hazards R136): the engine moves, and
nothing else. -/

namespace Sys2Proof.Machine

variable {s t u : State} {h : Held}

/-- A property that every step keeps holds in every state of a run, its last one included. -/
theorem IsRun.keeps {P : State → Prop} (hP : ∀ t u, P t → step t = .next u → P u) {run : List State} (hrun : IsRun s run)
    (hs : P s) : (∀ t ∈ run, P t) ∧ P (lastOf s run) := by
  induction run generalizing s with
  | nil => exact ⟨List.forall_mem_nil _, hs⟩
  | cons t rest ih =>
    obtain ⟨hstep, hrest⟩ := hrun
    have ht := hP s t hs hstep
    obtain ⟨hall, hlast⟩ := ih hrest ht
    exact ⟨List.forall_mem_cons.2 ⟨ht, hall⟩, hlast⟩

/-- The engine move taken stood in the list, and so did everything it leaves there. -/
theorem takeEngineMove_mem {xs rest : List Input} {m : EngineMove} (h : takeEngineMove xs = some (m, rest)) :
    .engine m ∈ xs ∧ rest ⊆ xs := by
  induction xs generalizing rest with
  | nil => cases h
  | cons x xs ih =>
    cases x with
    | engine k =>
      cases h
      exact ⟨List.mem_cons_self, List.subset_cons_self _ _⟩
    | request w t =>
      simp only [takeEngineMove, Option.map_eq_some_iff, Prod.mk.injEq] at h
      obtain ⟨p, hp, rfl, rfl⟩ := h
      obtain ⟨hmem, hsub⟩ := ih hp
      exact ⟨List.mem_cons_of_mem _ hmem, List.cons_subset_cons _ hsub⟩

/-- Everything a step can do while a request is held with no word ready: nothing, or the first engine move of the inputs. -/
theorem step_held_waiting_cases (hheld : s.held = some h) (hrx : s.engine.rxSlot = []) (hstep : step s = .next t) :
    t = s ∨ ∃ m rest, takeEngineMove s.inputs = some (m, rest) ∧ t = engineMove m (setInputs rest s) := by
  rw [step_held_waiting hheld hrx, Host.Outcome.next.injEq] at hstep
  cases hx : takeEngineMove s.inputs with
  | none => exact .inl (by rw [← hstep, hx])
  | some p => exact .inr ⟨p.1, p.2, rfl, by rw [← hstep, hx]⟩

/-- Everything a step can do while a request is held: complete it, do nothing, or make the first engine move of the
inputs. -/
theorem step_held_cases (hheld : s.held = some h) (hstep : step s = .next t) :
    (∃ raw rest m, t = completed h raw m (setRxSlot rest s)) ∨ t = s ∨
      ∃ m rest, takeEngineMove s.inputs = some (m, rest) ∧ t = engineMove m (setInputs rest s) := by
  by_cases hrx : s.engine.rxSlot = []
  · exact .inr (step_held_waiting_cases hheld hrx hstep)
  · rw [step_held_ready hheld hrx] at hstep
    obtain ⟨hrx', -⟩ | ⟨raw, rest, m, -, -, ht⟩ := completeOrHold_eq_next.1 hstep
    · exact absurd hrx' hrx
    · exact .inl ⟨raw, rest, m, ht⟩

/-- An engine move writes nothing but the engine. -/
theorem engineMove_eq (m : EngineMove) (s : State) : engineMove m s = { s with engine := (engineMove m s).engine } := by
  ext1 <;> simp

/-- No engine move but a placement gives the receive slot a word. -/
theorem engineMove_rxSlot_of_no_place {m : EngineMove} (hm : ∀ w, m ≠ .place w) (s : State) :
    (engineMove m s).engine.rxSlot = s.engine.rxSlot := by
  cases m with
  | transmit =>
    simp only [engineMove, engineTransmit]
    split
    · rfl
    · split <;> rfl
  | place w => exact absurd rfl (hm w)
  | report b => rfl

/-- The state `t` is `s` but for the engine and the engine moves taken from the inputs, and no word is there or to come. -/
def StillWaits (s t : State) : Prop :=
  ∃ e xs, t = { s with engine := e, inputs := xs } ∧ e.rxSlot = [] ∧ (∀ w, Input.engine (.place w) ∉ xs) ∧
    requestsOf xs = requestsOf s.inputs

theorem stillWaits_refl (hrx : s.engine.rxSlot = []) (hplace : ∀ w, Input.engine (.place w) ∉ s.inputs) :
    StillWaits s s := ⟨s.engine, s.inputs, rfl, hrx, hplace, rfl⟩

theorem StillWaits.step_keeps (hheld : s.held = some h) (hw : StillWaits s t) (hstep : step t = .next u) : StillWaits s u := by
  obtain ⟨e, xs, rfl, hrx, hplace, hreq⟩ := hw
  obtain rfl | ⟨m, rest, htake, rfl⟩ := step_held_waiting_cases (s := { s with engine := e, inputs := xs }) hheld hrx hstep
  · exact ⟨e, xs, rfl, hrx, hplace, hreq⟩
  · obtain ⟨hmem, hsub⟩ := takeEngineMove_mem htake
    have hm : ∀ w, m ≠ .place w := fun w hw => hplace w (hw ▸ hmem)
    exact ⟨_, rest, engineMove_eq _ _, (engineMove_rxSlot_of_no_place hm _).trans hrx, fun w hin => hplace w (hsub hin),
      (requestsOf_takeEngineMove htake).trans hreq⟩

end Sys2Proof.Machine
end

section
/-! CERTIFICATE. The statements of 70_reset_and_hazards, settled. -/

namespace Sys2Proof.Machine

/-- Settles O29: a word completes the held request at once; without one, each step leaves the state as it was but for the
engine and its moves, by induction on the run. -/
theorem heldRequestWaits : Obligations.HeldRequestWaits := by
  unfold Obligations.HeldRequestWaits
  refine ⟨fun s h hwf hheld hrx => ?_, fun s h run hheld hrx hplace hrun => ?_, fun s t hheld hstep => ?_⟩
  · obtain ⟨m, hm⟩ := hwf.motor_exists hwf.cur_lt
    obtain ⟨raw, rest, hcons⟩ := List.exists_cons_of_ne_nil hrx
    exact ⟨_, (step_held_ready hheld hrx).trans (completeOrHold_of_word hcons hm), completed_held, completed_phase, nofun,
      completed_inputs ..⟩
  · obtain ⟨hall, hlast⟩ := hrun.keeps (fun _ _ hw hstep => hw.step_keeps hheld hstep) (stillWaits_refl hrx hplace)
    refine ⟨fun t ht => ?_, ?_⟩
    · obtain ⟨e, xs, rfl, he, -, hreq⟩ := hall t ht
      exact ⟨hheld, he, rfl, rfl, rfl, rfl, rfl, rfl, rfl, rfl, rfl, hreq⟩
    · obtain ⟨e, xs, hlast, he, -⟩ := hlast
      rw [hlast]
      exact ⟨_, step_held_waiting (s := { s with engine := e, inputs := xs }) hheld he⟩
  · obtain ⟨h, hheld⟩ := Option.ne_none_iff_exists'.1 hheld
    obtain ⟨raw, rest, m, rfl⟩ | rfl | ⟨m, rest, htake, rfl⟩ := step_held_cases hheld hstep
    · simp
    · exact ⟨rfl, rfl⟩
    · simp [requestsOf_takeEngineMove htake]

/-- Settles O32: a start phase that finds the slot not free writes no Motor and nothing of the engine; after COMMAND each
frame sent on the channel pays one repeat, and no other step changes what the channel will send. -/
theorem repeatsDelayedNotDropped : Obligations.RepeatsDelayedNotDropped := by
  unfold Obligations.RepeatsDelayedNotDropped
  refine ⟨fun s t h hf => ?_, fun s t run c k m hwf hc hm h hrun hquiet => ?_⟩
  · obtain ⟨-, s1, b, hp, rfl⟩ := execTickStart_eq_next.1 h
    exact startPhase_of_not_free (s1 := s1) hp hf
  · obtain ⟨-, -, hrep, -⟩ := hwf.cfg
    have hrep' : s.cfg.repeatCount ≠ 0 := fun h0 => by simp [h0] at hrep
    rw [BitVec.ofNat_toNat]
    exact framesSentOn_of_owing hrun hquiet (sendingAt_of_execCommand hrep' hc hm h)

/-- Settles O42: construction within the ranges meets the invariant, and the parameters and the engine of `State.reset` are
within them. -/
theorem constructedIsWf : Obligations.ConstructedIsWf := by
  unfold Obligations.ConstructedIsWf
  have hcfg : defaultConfig.Wf := by decide
  have heng : Engine.atReset.Wf defaultConfig := ⟨Nat.zero_le _, Nat.zero_le _⟩
  exact ⟨fun cfg eng now0 hcfg heng => construct_wf hcfg heng now0, construct_wf hcfg heng 0⟩

/-- Settles O43: each register is the construction's own argument or constant, and the record after reset holds `NEUTRAL`,
0x000F. -/
theorem resetValues : Obligations.ResetValues := by
  unfold Obligations.ResetValues
  intro cfg eng now0
  have hreset : Motor.atReset = ⟨0x000F, 0x000F, 0, 0, 0, 0, 0, 0⟩ := by rw [Motor.atReset, neutral_eq]
  refine ⟨List.length_replicate, fun c hc => ?_, rfl, rfl, rfl, rfl, rfl, rfl, rfl, rfl, rfl, rfl, rfl, rfl⟩
  rw [← hreset]
  exact List.getElem?_replicate_of_lt hc

end Sys2Proof.Machine
end

section
/-! CERTIFICATE. The statements of 60_exceptions section 4, settled. -/

namespace Sys2Proof.Machine

/-- Settles O51: acceptance tests the time before it decodes the word, so the refusal is `timeBackwards` for every word. -/
theorem backwardTimeRefused : Obligations.BackwardTimeRefused := by
  unfold Obligations.BackwardTimeRefused
  intro s w t rest hheld hin ht
  exact step_of_backward_time hheld hin ht

end Sys2Proof.Machine
end
